-- ==== Sys2Proof/Word.lean ====
section
/-! DEFINITION. The widths the spec uses: 16-bit words on the bus and in the accumulator (R50, R22), bytes
(R11), the nibbles the checksum engine works on (R101) and 11-bit word addresses (R50). -/

namespace Sys2Proof

/-- A u16: a bus word, an instruction word, the accumulator (R11, R50, R22). -/
abbrev Word := BitVec 16

/-- A byte (R11). -/
abbrev Byte := BitVec 8

/-- Half a byte, the operand of one checksum step (R101). -/
abbrev Nibble := BitVec 4

/-- A word address of the host bus, 0x000 to 0x7FF (R50). -/
abbrev Addr := BitVec 11

end Sys2Proof
end

