-- ==== Sys2Proof/Syntax.lean ====
section
/-! DEFINITION. The thirteen operations of R75, one constructor per row of the opcode table. -/

namespace Sys2Proof

/-- An operation with its operand byte IMM8. A constructor whose operation ignores IMM8 (R74) carries it all
the same, because ERRWORD records the word as the host wrote it (R26, R183; log 6). -/
inductive Instr where
  /-- R170. -/
  | nop (imm : Byte)
  /-- R105. -/
  | crcClr (imm : Byte)
  /-- R106: the nibble is `imm[3:0]`. -/
  | crcNib (imm : Byte)
  /-- R107: the data byte. -/
  | crcByte (imm : Byte)
  /-- R171. -/
  | srst (imm : Byte)
  /-- R123: the command byte. -/
  | reqStart (cmd : Byte)
  /-- R124: the payload byte. -/
  | reqPut (imm : Byte)
  /-- R125. -/
  | reqSeal (imm : Byte)
  /-- R141. -/
  | rxStart (imm : Byte)
  /-- R142: the raw byte received. -/
  | rxPut (imm : Byte)
  /-- R143. -/
  | decode (imm : Byte)
  /-- R144: the operand is `expected_min_len`. -/
  | validate (minLen : Byte)
  /-- R172. -/
  | errClr (imm : Byte)
  deriving DecidableEq, Repr

end Sys2Proof
end

