-- ==== Sys2Proof/WellFormed.lean ====
section
/-! DEFINITION. What the spec says of an operation's operand as syntax: which operand values are legal, and
which ones software should write (R77, R74). Every instruction word has a meaning, the ill-formed ones too:
an illegal command byte is an operation error the machine takes (R123), so nothing in the machine depends on
these checks. -/

namespace Sys2Proof

/-- R77: "The only operand value that is illegal is a REQ_START command byte outside 0x01..0x05". -/
def Instr.wf : Instr → Bool
  | .reqStart cmd => 0x01 ≤ cmd.toNat && cmd.toNat ≤ 0x05
  | .nop _ | .crcClr _ | .crcNib _ | .crcByte _ | .srst _ | .reqPut _ | .reqSeal _ | .rxStart _ | .rxPut _
  | .decode _ | .validate _ | .errClr _ => true

/-- R74, R77: the ignored bits of IMM8 are reserved-should-be-zero, and software should write them zero. -/
def Instr.reservedClear : Instr → Bool
  | .nop imm | .crcClr imm | .srst imm | .reqSeal imm | .rxStart imm | .decode imm | .errClr imm => imm == 0
  | .crcNib imm => imm.extractLsb' 4 4 == 0
  | .crcByte _ | .reqStart _ | .reqPut _ | .rxPut _ | .validate _ => true

end Sys2Proof
end

