-- ==== Sys2Proof/Decode.lean ====
section
/-! DEFINITION. From an instruction word to an operation and back (R73, R75, R76), total on every word. -/

namespace Sys2Proof

/-- Why a word is no operation. -/
inductive Reject where
  /-- The OPC is not in the map of R75 (R76). The machine takes ILLEGAL_OPCODE for it; the decoder raises it. -/
  | undefinedOpcode (opc : Byte)
  deriving DecidableEq, Repr

/-- OPC, bits [15:8] of the instruction word (R73). -/
def opcField (w : Word) : Byte := w.extractLsb' 8 8

/-- IMM8, bits [7:0] of the instruction word (R73). -/
def immField (w : Word) : Byte := w.extractLsb' 0 8

/-- The operation a word written to CMD selects: the opcode map of R75, every other OPC rejected (R76). -/
def decode (w : Word) : Except Reject Instr :=
  match opcField w with
  | 0x00#8 => .ok (.nop (immField w))
  | 0x01#8 => .ok (.crcClr (immField w))
  | 0x02#8 => .ok (.crcNib (immField w))
  | 0x03#8 => .ok (.crcByte (immField w))
  | 0x0F#8 => .ok (.srst (immField w))
  | 0x10#8 => .ok (.reqStart (immField w))
  | 0x11#8 => .ok (.reqPut (immField w))
  | 0x12#8 => .ok (.reqSeal (immField w))
  | 0x20#8 => .ok (.rxStart (immField w))
  | 0x21#8 => .ok (.rxPut (immField w))
  | 0x22#8 => .ok (.decode (immField w))
  | 0x23#8 => .ok (.validate (immField w))
  | 0x30#8 => .ok (.errClr (immField w))
  | opc => .error (.undefinedOpcode opc)

/-- The OPC of an operation, from the bit patterns of R75. -/
def Instr.opc : Instr → Byte
  | .nop _ => 0b00000000
  | .crcClr _ => 0b00000001
  | .crcNib _ => 0b00000010
  | .crcByte _ => 0b00000011
  | .srst _ => 0b00001111
  | .reqStart _ => 0b00010000
  | .reqPut _ => 0b00010001
  | .reqSeal _ => 0b00010010
  | .rxStart _ => 0b00100000
  | .rxPut _ => 0b00100001
  | .decode _ => 0b00100010
  | .validate _ => 0b00100011
  | .errClr _ => 0b00110000

/-- The operand byte an operation was written with. -/
def Instr.imm : Instr → Byte
  | .nop imm | .crcClr imm | .crcNib imm | .crcByte imm | .srst imm | .reqStart imm | .reqPut imm | .reqSeal imm
  | .rxStart imm | .rxPut imm | .decode imm | .validate imm | .errClr imm => imm

/-- The word of an operation, `{OPC, IMM8}` (R73). -/
def encode (i : Instr) : Word := i.opc ++ i.imm

/-- The decoder on a word as the opcode table numbers its bits: one 16-bit word, the bits above `nbits` zero.
The block has no longer form (R73). -/
def decodeTableWord (nbits w : Nat) : Option Instr :=
  if nbits ≤ 16 then (decode (BitVec.ofNat 16 (w % 2 ^ nbits))).toOption else none

end Sys2Proof
end

