-- ==== Sys2Proof/Config.lean ====
section
/-! DEFINITION. What is fixed for a given block (R7, R43), and the one value the spec leaves free (R200). -/

namespace Sys2Proof

/-- The implementation parameter of R7. The machine holds one in State, where no step writes it, so that a
claim over every state is a claim over every value of the parameter (log 1). -/
structure Config where
  /-- `BUF_CAP`: the capacity in bytes of each of REQ, TX, RX and DEC. -/
  bufCap : Nat
  deriving DecidableEq, Repr

/-- The values R7 allows: `8 <= BUF_CAP <= 256`. -/
abbrev Config.WF (c : Config) : Prop := 8 ≤ c.bufCap ∧ c.bufCap ≤ 256

/-- The spec's default, 128 (R7). -/
def Config.standard : Config := { bufCap := 128 }

/-- The free value of R200: the word that the n-th bus read coinciding with reset returns. It has no body:
nothing can be proved of its value (log 5). -/
opaque Config.freeRead : Nat → Word

end Sys2Proof
end

