-- ==== Sys2Proof/Machine/State.lean ====
section
/-! DEFINITION. The state of the block (R22 to R29), its reset value (R41), the host's side of the bus, and the
ways a step could stop. -/

namespace Sys2Proof.Machine

/-- The exchange states of R23. The value 7 is never produced and is not in the type (log 11). -/
inductive XState where
  | idle
  | frameSent
  | awaitingResponse
  | responseValid
  | timeout
  | checksumMismatch
  | lengthMismatch
  deriving DecidableEq, Repr

/-- The operation error codes of R181. The values 5, 6 and 7 are never produced and are not in the type
(log 11). -/
inductive OpErr where
  | ok
  | illegalOpcode
  | badCommand
  | sequence
  | overflow
  deriving DecidableEq, Repr

/-- Every state element of the block, R22 to R29. The length fields of R25 are the buffers' lengths (log 12). -/
structure Block where
  /-- CRC_ACC, the checksum accumulator (R22). -/
  crcAcc : Word
  /-- XSTATE (R23). -/
  xstate : XState
  /-- ECHO_MM: EchoMismatch seen on the last EraseFlash validation (R24). -/
  echoMm : Bool
  /-- RX_EOF: a raw 0x04 has been handed to RX_PUT since the last RX_START (R24). -/
  rxEof : Bool
  /-- RX_OVF: a byte was dropped because RX was full since the last RX_START (R24). -/
  rxOvf : Bool
  /-- REQ_OPEN: a request has been started and not yet sealed (R24). -/
  reqOpen : Bool
  /-- VER_VALID: MAJOR and MINOR belong to the last ReadVersion validation (R24). -/
  verValid : Bool
  /-- OPERR: the result code of the last operation (R26). -/
  opErr : OpErr
  /-- ERRSEEN, sticky (R26). -/
  errSeen : Bool
  /-- ERRWORD: the word of the last operation that ended in an operation error (R26). -/
  errWord : Word
  /-- REQ, the request (R27). -/
  req : List Byte
  /-- TX, the stuffed frame of the last successful REQ_SEAL (R27). -/
  tx : List Byte
  /-- RX, the raw received bytes (R27). -/
  rx : List Byte
  /-- DEC, the unescaped form of RX of the last DECODE or VALIDATE (R27). -/
  dec : List Byte
  /-- MAJOR (R28). -/
  major : Byte
  /-- MINOR (R28). -/
  minor : Byte
  /-- LAST_CMD: the command byte of the last sealed request (R29). -/
  lastCmd : Byte
  deriving DecidableEq, Repr

/-- R41: the value of every state element after the reset input and after SRST. -/
def Block.reset : Block where
  crcAcc := 0x0000
  xstate := .idle
  echoMm := false
  rxEof := false
  rxOvf := false
  reqOpen := false
  verValid := false
  opErr := .ok
  errSeen := false
  errWord := 0x0000
  req := []
  tx := []
  rx := []
  dec := []
  major := 0x00
  minor := 0x00
  lastCmd := 0x00

/-- One host bus access: a 16-bit word at an 11-bit word address (R50). -/
inductive Access where
  | read (a : Addr)
  | write (a : Addr) (w : Word)
  deriving DecidableEq, Repr

/-- What the outside can do to the block: a bus access, or the reset input, which may coincide with a bus
access that is then lost (R200; log 13). -/
inductive HostEvent where
  | access (x : Access)
  | reset (lost : Option Access)
  deriving DecidableEq, Repr

/-- The machine: the block's configuration, its state elements, and the host's side of the bus. -/
structure State where
  /-- BUF_CAP (R7, R43): no step writes it (log 1). -/
  cfg : Config
  /-- Every state element the spec gives the block. -/
  block : Block
  /-- The model's own: what the host does next, oldest first (log 2). -/
  pending : List HostEvent
  /-- The model's own: the values the host's reads returned, newest first (log 4). -/
  reads : List Word
  /-- The model's own: how many free values have been drawn (log 5). -/
  draws : Nat
  deriving DecidableEq, Repr

/-- The machine right after reset (R41), with the default capacity (R7) and a host that has done nothing. -/
def State.reset : State where
  cfg := Config.standard
  block := Block.reset
  pending := []
  reads := []
  draws := 0

/-- Reasons to stop. The block has none: no operation and no access faults (R180), and it cannot hang (R196),
so nothing raises a fault and the type is empty (log 10). -/
inductive Fault where
  deriving DecidableEq, Repr

/-- Reasons to give an instruction no meaning. -/
inductive Refusal where
  /-- Raised by an arm of `exec` whose instruction has no meaning yet (safe). No arm raises it (log 10). -/
  | notModelled (mnemonic : String)
  deriving DecidableEq, Repr

/-- What a step of this machine answers. -/
abbrev Result := Host.Outcome State Fault Refusal

end Sys2Proof.Machine
end

