-- ==== Sys2Proof/Machine/Operands.lean ====
section
/-! DEFINITION. The wire constants (R70, R71, R14), the operand forms of R74, the byte order of R54 and the
sequence notation of R12. -/

namespace Sys2Proof.Machine

/-- R70. -/
def beginMarker : Byte := 0x01
/-- R70. -/
def endMarker : Byte := 0x04
/-- R70. -/
def escapeMarker : Byte := 0x10

/-- R14: a byte is a control value when it is in CTRL = {0x01, 0x04, 0x10}. -/
def isControl (b : Byte) : Bool := b == beginMarker || b == endMarker || b == escapeMarker

/-- The five commands of R71. -/
inductive Command where
  | readVersion
  | eraseFlash
  | programFlash
  | readCrc
  | jumpToApp
  deriving DecidableEq, Repr

/-- The command codes of R71. -/
def Command.code : Command → Byte
  | .readVersion => 0x01
  | .eraseFlash => 0x02
  | .programFlash => 0x03
  | .readCrc => 0x04
  | .jumpToApp => 0x05

/-- The command a byte stands for: "The values 0x00 and 0x06 to 0xFF are no command" (R71). -/
def Command.ofByte (b : Byte) : Option Command :=
  [Command.readVersion, .eraseFlash, .programFlash, .readCrc, .jumpToApp].find? fun c => c.code == b

/-- The check of REQ_START on its command byte (R123). -/
def isCommand (b : Byte) : Bool := (Command.ofByte b).isSome

/-- CRC_NIB's operand, `IMM8[3:0]` (R74). -/
def nibbleOperand (imm : Byte) : Nibble := imm.extractLsb' 0 4

/-- Bits [7:4] of a byte (R102). -/
def hiNibble (b : Byte) : Nibble := b.extractLsb' 4 4

/-- Bits [3:0] of a byte (R102). -/
def loNibble (b : Byte) : Nibble := b.extractLsb' 0 4

/-- `checksum_lo = c[7:0]` (R54). -/
def loByte (c : Word) : Byte := c.extractLsb' 0 8

/-- `checksum_hi = c[15:8]` (R54). -/
def hiByte (c : Word) : Byte := c.extractLsb' 8 8

/-- `lo + 256 * hi` (R146). -/
def ofLoHi (lo hi : Byte) : Word := hi ++ lo

/-- `L[i..j]`: the elements i to j inclusive, empty when `j < i` (R12). -/
def slice (L : List Byte) (i j : Nat) : List Byte := (L.take (j + 1)).drop i

/-- `L[i]` where a rule has made sure that the index is inside (R12); 0x00 elsewhere, where no rule reads
(log 15, DESIGN CHOICE). -/
def byteAt (L : List Byte) (i : Nat) : Byte := L.getD i 0x00

end Sys2Proof.Machine
end

