-- ==== Sys2Proof/Machine/Checksum.lean ====
section
/-! DEFINITION. The checksum functions of R100 to R103. -/

namespace Sys2Proof.Machine

/-- TABLE (R100). The spec marks the entries as its own, from general knowledge (log 9). -/
def table : Vector Word 16 :=
  #v[0x0000, 0x1021, 0x2042, 0x3063, 0x4084, 0x50A5, 0x60C6, 0x70E7,
     0x8108, 0x9129, 0xA14A, 0xB16B, 0xC18C, 0xD1AD, 0xE1CE, 0xF1EF]

/-- `TABLE[i]` (R100). -/
def tableAt (i : Nibble) : Word := table[i.toNat]'i.isLt

/-- `nib_step(a, n)` (R101): the index keeps only its low four bits. -/
def nibStep (a : Word) (n : Nibble) : Word :=
  let index := (a >>> 12) ^^^ n.setWidth 16
  tableAt (index.extractLsb' 0 4) ^^^ (a <<< 4)

/-- `byte_step(a, b)`: the high nibble, then the low one (R102). -/
def byteStep (a : Word) (b : Byte) : Word := nibStep (nibStep a (hiNibble b)) (loNibble b)

/-- `checksum(L)`: from 0x0000, byte by byte, no final XOR (R103). -/
def checksum (L : List Byte) : Word := L.foldl byteStep 0x0000

end Sys2Proof.Machine
end

