-- ==== Sys2Proof/Machine/Codec.lean ====
section
/-! DEFINITION. The frame codec's functions: the unescaped frame (R120), stuffing (R121) and its removal
(R140). -/

namespace Sys2Proof.Machine

/-- `frame(cmd, P)`: the begin-marker, the command, the payload, the checksum low byte first and the
end-marker; the checksum covers `[cmd] ++ P` (R120, R72). -/
def frame (cmd : Byte) (P : List Byte) : List Byte :=
  let c := checksum ([cmd] ++ P)
  [beginMarker, cmd] ++ P ++ [loByte c, hiByte c, endMarker]

/-- What `stuff` emits for the byte at index k of a sequence of length n: the byte itself, with an
escape-marker before it when it is a control value strictly between the first and the last index (R121). -/
def stuffByte (n k : Nat) (b : Byte) : List Byte :=
  if 0 < k ∧ k < n - 1 ∧ isControl b then [escapeMarker, b] else [b]

/-- `stuff(U)`: what each index emits, in order (R121). -/
def stuff (U : List Byte) : List Byte := U.zipIdx.flatMap fun p => stuffByte U.length p.2 p.1

/-- `unstuff(R)`: one left-to-right pass with a lookahead of one byte. An escape-marker before a control
value is dropped and the scan resumes after the kept byte; every other byte is kept (R140, C1). -/
def unstuff : List Byte → List Byte
  | [] => []
  | [b] => [b]
  | b :: c :: rest =>
    if b = escapeMarker ∧ isControl c then c :: unstuff rest else b :: unstuff (c :: rest)

end Sys2Proof.Machine
end

