-- ==== Sys2Proof/Machine/Flags.lean ====
section
/-! DEFINITION. How the status fields are coded (R23, R181) and packed into the STATUS word (R31), and the
packing of the other registers (R33, R34, R35, R37). -/

namespace Sys2Proof.Machine

/-- The values of XSTATE (R23). -/
def XState.code : XState → BitVec 3
  | .idle => 0
  | .frameSent => 1
  | .awaitingResponse => 2
  | .responseValid => 3
  | .timeout => 4
  | .checksumMismatch => 5
  | .lengthMismatch => 6

/-- The values of OPERR (R181). -/
def OpErr.code : OpErr → BitVec 3
  | .ok => 0
  | .illegalOpcode => 1
  | .badCommand => 2
  | .sequence => 3
  | .overflow => 4

/-- A field of a register: its bits at [lsb + n - 1 : lsb] of a word. -/
def field {n : Nat} (v : BitVec n) (lsb : Nat) : Word := v.setWidth 16 <<< lsb

/-- A one-bit field. -/
def flag (v : Bool) (lsb : Nat) : Word := field (BitVec.ofBool v) lsb

/-- The STATUS register (R31): each field at its place, bits [15:12] read 0. -/
def statusWord (b : Block) : Word :=
  field b.xstate.code 0 ||| flag b.echoMm 3 ||| flag b.rxEof 4 ||| flag b.rxOvf 5 ||| flag b.reqOpen 6
    ||| flag b.verValid 7 ||| field b.opErr.code 8 ||| flag b.errSeen 11

/-- The VERSION register, `{MAJOR, MINOR}` (R33). -/
def versionWord (b : Block) : Word := b.major ++ b.minor

/-- A 9-bit length field (R25). -/
def lenField (L : List Byte) : BitVec 9 := BitVec.ofNat 9 L.length

/-- A length register: bits [8:0] the length, bits [15:9] read 0 (R34). -/
def lenWord (L : List Byte) : Word := (lenField L).setWidth 16

/-- The LAST_CMD register: bits [15:8] read 0 (R35). -/
def lastCmdWord (b : Block) : Word := b.lastCmd.setWidth 16

/-- The CAP register: bits [8:0] = BUF_CAP, bits [15:9] read 0 (R37). -/
def capWord (c : Config) : Word := (BitVec.ofNat 9 c.bufCap).setWidth 16

/-- A word of a buffer window: the byte zero-extended below the length, 0x0000 from it on (R38). -/
def windowWord (L : List Byte) (i : Byte) : Word := (L.getD i.toNat 0x00).setWidth 16

end Sys2Proof.Machine
end

