-- ==== Sys2Proof/Machine/Ops.lean ====
section
/-! DEFINITION. The operations every meaning shares: how an operation succeeds (R184), how it takes an
operation error (R183), the soft reset (R41), and the host's view of the block through the register map (R52,
R59). -/

namespace Sys2Proof.Machine

/-- `s` with other state elements: the configuration and the host's side stay. -/
def State.setBlock (s : State) (b : Block) : State := { s with block := b }

/-- A successful end: the operation's writes `b`, with OPERR <- 0 (R184). -/
def succeed (b : Block) (s : State) : Result := .next (s.setBlock { b with opErr := .ok })

/-- Taking an operation error, `raise OpError(code)` for the word `w`: OPERR, ERRSEEN and ERRWORD are written
and every other element keeps its value (R183). There is no return from it: the next write runs normally
(R186). -/
def opError (code : OpErr) (w : Word) (s : State) : Result :=
  .next (s.setBlock { s.block with opErr := code, errSeen := true, errWord := w })

/-- Every state element to its reset value (R41, R200). The configuration is not state (R43). -/
def resetBlock (s : State) : State := s.setBlock Block.reset

/-- The four byte buffers (R27). -/
inductive Buffer where
  | req
  | tx
  | rx
  | dec
  deriving DecidableEq, Repr

/-- The content of a buffer (R27). -/
def Buffer.content (b : Block) : Buffer → List Byte
  | .req => b.req
  | .tx => b.tx
  | .rx => b.rx
  | .dec => b.dec

/-- What a word address stands for (R59). -/
inductive BusReg where
  | cmd
  | status
  | crc
  | version
  | len (buf : Buffer)
  | lastCmd
  | errWord
  | cap
  | window (buf : Buffer) (i : Byte)
  | reserved
  deriving DecidableEq, Repr

/-- The address map, complete (R59): bits [10:8] select the page, bits [7:0] the word in it. -/
def busReg (a : Addr) : BusReg :=
  let i : Byte := a.extractLsb' 0 8
  match (a.extractLsb' 8 3).toNat with
  | 0 =>
    match i.toNat with
    | 0x00 => .cmd
    | 0x01 => .status
    | 0x02 => .crc
    | 0x03 => .version
    | 0x04 => .len .req
    | 0x05 => .len .tx
    | 0x06 => .len .rx
    | 0x07 => .len .dec
    | 0x08 => .lastCmd
    | 0x09 => .errWord
    | 0x0A => .cap
    | _ => .reserved
  | 1 => .window .req i
  | 2 => .window .tx i
  | 3 => .window .rx i
  | 4 => .window .dec i
  | _ => .reserved

/-- The value of a register (R30 to R39): CMD and the reserved addresses read 0x0000. -/
def readReg (s : State) : BusReg → Word
  | .cmd => 0x0000
  | .status => statusWord s.block
  | .crc => s.block.crcAcc
  | .version => versionWord s.block
  | .len buf => lenWord (buf.content s.block)
  | .lastCmd => lastCmdWord s.block
  | .errWord => s.block.errWord
  | .cap => capWord s.cfg
  | .window buf i => windowWord (buf.content s.block) i
  | .reserved => 0x0000

/-- `MemRead(a, 16)` (R52). -/
def memRead (s : State) (a : Addr) : Word := readReg s (busReg a)

end Sys2Proof.Machine
end

