-- ==== Sys2Proof/Machine/Control.lean ====
section
/-! DEFINITION. The control operations NOP, SRST and ERR_CLR (R170 to R172). -/

namespace Sys2Proof.Machine

/-- NOP: OPERR <- 0 and nothing else (R170). -/
def execNop (_imm : Byte) (s : State) : Result := succeed s.block s

/-- SRST: every state element to its reset value, in every state (R171). -/
def execSrst (_imm : Byte) (s : State) : Result := .next (resetBlock s)

/-- ERR_CLR: clears ERRSEEN, ERRWORD and OPERR (R172). -/
def execErrClr (_imm : Byte) (s : State) : Result :=
  succeed { s.block with errSeen := false, errWord := 0x0000 } s

end Sys2Proof.Machine
end

