-- ==== Sys2Proof/Machine/Crc.lean ====
section
/-! DEFINITION. The checksum operations CRC_CLR, CRC_NIB and CRC_BYTE (R105 to R107). -/

namespace Sys2Proof.Machine

/-- CRC_CLR (R105). -/
def execCrcClr (_imm : Byte) (s : State) : Result := succeed { s.block with crcAcc := 0x0000 } s

/-- CRC_NIB: one nibble step on `IMM8[3:0]` (R106). -/
def execCrcNib (imm : Byte) (s : State) : Result :=
  succeed { s.block with crcAcc := nibStep s.block.crcAcc (nibbleOperand imm) } s

/-- CRC_BYTE: one byte step (R107). -/
def execCrcByte (imm : Byte) (s : State) : Result :=
  succeed { s.block with crcAcc := byteStep s.block.crcAcc imm } s

end Sys2Proof.Machine
end

