-- ==== Sys2Proof/Machine/Framer.lean ====
section
/-! DEFINITION. The encode direction: REQ_START, REQ_PUT and REQ_SEAL (R123 to R125). -/

namespace Sys2Proof.Machine

/-- REQ_START: BAD_COMMAND unless the operand is a command code; otherwise a new request is open (R123). -/
def execReqStart (cmd : Byte) (s : State) : Result :=
  if isCommand cmd then
    succeed { s.block with req := [beginMarker, cmd], reqOpen := true, xstate := .idle, echoMm := false } s
  else
    opError .badCommand (encode (.reqStart cmd)) s

/-- REQ_PUT: SEQUENCE when no request is open, then OVERFLOW when this byte and the three that sealing adds
do not fit; otherwise the byte is appended (R124). -/
def execReqPut (imm : Byte) (s : State) : Result :=
  if s.block.reqOpen = false then opError .sequence (encode (.reqPut imm)) s
  else if s.cfg.bufCap < s.block.req.length + 4 then opError .overflow (encode (.reqPut imm)) s
  else succeed { s.block with req := s.block.req ++ [imm] } s

/-- The command of an open request, `REQ[1]` (R125). -/
def openCmd (b : Block) : Byte := byteAt b.req 1

/-- The payload of an open request, `REQ[2 .. len(REQ)-1]` (R125). -/
def openPayload (b : Block) : List Byte := slice b.req 2 (b.req.length - 1)

/-- The unescaped frame sealing makes of an open request (R125). -/
def sealedFrame (b : Block) : List Byte := frame (openCmd b) (openPayload b)

/-- REQ_SEAL: SEQUENCE when no request is open, then OVERFLOW when the stuffed frame does not fit; otherwise
the frame, its stuffed form, its checksum and its command are stored and the exchange is FrameSent (R125). -/
def execReqSeal (imm : Byte) (s : State) : Result :=
  if s.block.reqOpen = false then opError .sequence (encode (.reqSeal imm)) s
  else if s.cfg.bufCap < (stuff (sealedFrame s.block)).length then opError .overflow (encode (.reqSeal imm)) s
  else
    succeed
      { s.block with
        req := sealedFrame s.block
        tx := stuff (sealedFrame s.block)
        crcAcc := checksum ([openCmd s.block] ++ openPayload s.block)
        reqOpen := false
        xstate := .frameSent
        lastCmd := openCmd s.block } s

end Sys2Proof.Machine
end

