-- ==== Sys2Proof/Machine/Receiver.lean ====
section
/-! DEFINITION. The decode direction and the validator: RX_START, RX_PUT, DECODE and VALIDATE (R141 to R148). -/

namespace Sys2Proof.Machine

/-- RX_START: only from FrameSent; RX and its two flags are cleared (R141). -/
def execRxStart (imm : Byte) (s : State) : Result :=
  if s.block.xstate = .frameSent then
    succeed { s.block with rx := [], rxEof := false, rxOvf := false, xstate := .awaitingResponse } s
  else
    opError .sequence (encode (.rxStart imm)) s

/-- RX_PUT: only in AwaitingResponse. A full RX drops the byte and sets RX_OVF; a raw 0x04, stored or dropped,
sets RX_EOF (R142). -/
def execRxPut (imm : Byte) (s : State) : Result :=
  if s.block.xstate = .awaitingResponse then
    let room : Bool := s.block.rx.length < s.cfg.bufCap
    succeed
      { s.block with
        rx := if room then s.block.rx ++ [imm] else s.block.rx
        rxOvf := if room then s.block.rxOvf else true
        rxEof := if imm = endMarker then true else s.block.rxEof } s
  else
    opError .sequence (encode (.rxPut imm)) s

/-- DECODE: DEC <- unstuff(RX), in every state (R143). -/
def execDecode (_imm : Byte) (s : State) : Result := succeed { s.block with dec := unstuff s.block.rx } s

/-- `base_len`: 7 for ReadVersion, 5 for every other command (R145). -/
def baseLen (cmd : Byte) : Nat := if cmd = Command.code .readVersion then 7 else 5

/-- The least decoded length VALIDATE accepts: `max(IMM8, base_len(LAST_CMD))` (R144, R145). -/
def requiredLen (minLen cmd : Byte) : Nat := max minLen.toNat (baseLen cmd)

/-- The checksum of the command and payload region `D[1 .. L-4]`, taken from the response's own end (R146;
log 14, DEDUCED, on R208). -/
def freshChecksum (D : List Byte) : Word := checksum (slice D 1 (D.length - 4))

/-- The checksum embedded in the response, `D[L-3] + 256 * D[L-2]` (R146). -/
def embeddedChecksum (D : List Byte) : Word :=
  ofLoHi (byteAt D (D.length - 3)) (byteAt D (D.length - 2))

/-- The result of VALIDATE for the raw bytes RX: Timeout, then LengthMismatch, then the checksum, by the pseudocode of
R144. R205 and R208 say of some raw sequences (cut at an escaped 0x04, cut by the drop at BUF_CAP, or followed by more
bytes) that their checksum fails; where it happens to hold the model keeps to the pseudocode and answers ResponseValid
(DEDUCED: log 14, 17, 18). -/
def verdict (rx : List Byte) (minLen cmd : Byte) : XState :=
  let D := unstuff rx
  if rx = [] then .timeout
  else if D.length < requiredLen minLen cmd then .lengthMismatch
  else if freshChecksum D = embeddedChecksum D then .responseValid
  else .checksumMismatch

/-- Whether a result is one for which the checksum was computed (R144). -/
def checksumComputed (r : XState) : Bool := r == .responseValid || r == .checksumMismatch

/-- The EraseFlash echo comparison (R147). -/
def echoMismatch (r : XState) (D req : List Byte) : Bool :=
  if r = .timeout then false
  else if D.length < 5 then true
  else D.take 5 != req.take 5

/-- What VALIDATE with the operand `minLen` writes, the error state apart (R144, R147, R148). -/
def validated (minLen : Byte) (b : Block) : Block :=
  let D := unstuff b.rx
  let r := verdict b.rx minLen b.lastCmd
  let version : Bool := b.lastCmd == Command.code .readVersion
  let newVersion : Bool := version && r == .responseValid
  { b with
    dec := D
    xstate := r
    crcAcc := if checksumComputed r then freshChecksum D else b.crcAcc
    echoMm := if b.lastCmd = Command.code .eraseFlash then echoMismatch r D b.req else false
    major := if newVersion then byteAt D 2 else b.major
    minor := if newVersion then byteAt D 3 else b.minor
    verValid := if version then r == .responseValid else b.verValid }

/-- VALIDATE: only in AwaitingResponse (R144). -/
def execValidate (minLen : Byte) (s : State) : Result :=
  if s.block.xstate = .awaitingResponse then succeed (validated minLen s.block) s
  else opError .sequence (encode (.validate minLen)) s

end Sys2Proof.Machine
end

