-- ==== Sys2Proof/Machine/Dispatch.lean ====
section
/-! DEFINITION. The meaning of each operation, one arm per constructor. -/

namespace Sys2Proof.Machine

def exec (i : Instr) (s : State) : Host.Outcome State Fault Refusal :=
  match i with
  | .nop imm => Sys2Proof.Machine.execNop imm s
  | .crcClr imm => Sys2Proof.Machine.execCrcClr imm s
  | .crcNib imm => Sys2Proof.Machine.execCrcNib imm s
  | .crcByte imm => Sys2Proof.Machine.execCrcByte imm s
  | .srst imm => Sys2Proof.Machine.execSrst imm s
  | .reqStart cmd => Sys2Proof.Machine.execReqStart cmd s
  | .reqPut imm => Sys2Proof.Machine.execReqPut imm s
  | .reqSeal imm => Sys2Proof.Machine.execReqSeal imm s
  | .rxStart imm => Sys2Proof.Machine.execRxStart imm s
  | .rxPut imm => Sys2Proof.Machine.execRxPut imm s
  | .decode imm => Sys2Proof.Machine.execDecode imm s
  | .validate minLen => Sys2Proof.Machine.execValidate minLen s
  | .errClr imm => Sys2Proof.Machine.execErrClr imm s

end Sys2Proof.Machine
end

