-- ==== Sys2Proof/Machine/HostBus.lean ====
section
/-! DEFINITION. What each host event does to the block: a bus write (R53), a bus read (R52), the reset input
(R200). -/

namespace Sys2Proof.Machine

/-- `execute(w)`: the operation a word written to CMD selects, run to completion; an undefined OPC takes
ILLEGAL_OPCODE, decided before anything else (R53, R76, R185). -/
def execute (w : Word) (s : State) : Result :=
  match decode w with
  | .ok i => exec i s
  | .error (.undefinedOpcode _) => opError .illegalOpcode w s

/-- `MemWrite(a, 16, w)`: only CMD, at 0x000, does anything (R53). -/
def memWrite (a : Addr) (w : Word) (s : State) : Result :=
  if a = 0x000#11 then execute w s else .next s

/-- The value the host's read returns is recorded on the host's side (log 4). -/
def State.deliver (s : State) (v : Word) : State := { s with reads := v :: s.reads }

/-- A bus access coinciding with reset is lost; a read then returns a free value (R200; log 5). -/
def loseAccess (lost : Option Access) (s : State) : State :=
  match lost with
  | some (.read _) => { s.deliver (Config.freeRead s.draws) with draws := s.draws + 1 }
  | some (.write _ _) => s
  | none => s

/-- One host event (R9, R52, R53, R200). -/
def hostEvent (e : HostEvent) (s : State) : Result :=
  match e with
  | .access (.read a) => .next (s.deliver (memRead s a))
  | .access (.write a w) => memWrite a w s
  | .reset lost => .next (loseAccess lost (resetBlock s))

/-- The host's next CMD write of the word `w`, before anything else it does. -/
def State.pushCmd (s : State) (w : Word) : State :=
  { s with pending := .access (.write 0x000#11 w) :: s.pending }

end Sys2Proof.Machine
end

