-- ==== Sys2Proof/Machine/Step.lean ====
section
/-! DEFINITION. One step: the oldest pending host event. -/

namespace Sys2Proof.Machine

/-- One step takes the oldest host event (R9, R61). With none pending the block takes no step of its own and
nothing changes (R9; log 3). -/
def step (s : State) : Host.Outcome State Fault Refusal :=
  match s.pending with
  | [] => .next s
  | e :: rest => hostEvent e { s with pending := rest }

/-- The block fetches nothing (R21): its next instruction is the next word the host writes to CMD. The word
goes in front of whatever the host was going to do (log 7). -/
def State.withFetchWord (s : State) (nbits w : Nat) : State :=
  s.pushCmd (BitVec.ofNat 16 (w % 2 ^ nbits))

end Sys2Proof.Machine
end

