-- ==== Sys2Proof/Machine/Assembly.lean ====
section
/-! DEFINITION. The assembly notation of R80 and the pseudo-instructions of R81: from lines of text to the words
the host writes to CMD, and to the accesses it makes. The block itself sees only those accesses (log 16). -/

namespace Sys2Proof.Machine

/-- The mnemonics of R75. -/
inductive Mnemonic where
  | nop
  | crcClr
  | crcNib
  | crcByte
  | srst
  | reqStart
  | reqPut
  | reqSeal
  | rxStart
  | rxPut
  | decode
  | validate
  | errClr
  deriving DecidableEq, Repr

/-- The operation of a mnemonic with its operand byte (R80: `{OPC, imm}`). -/
def Mnemonic.instr : Mnemonic → Byte → Instr
  | .nop => .nop
  | .crcClr => .crcClr
  | .crcNib => .crcNib
  | .crcByte => .crcByte
  | .srst => .srst
  | .reqStart => .reqStart
  | .reqPut => .reqPut
  | .reqSeal => .reqSeal
  | .rxStart => .rxStart
  | .rxPut => .rxPut
  | .decode => .decode
  | .validate => .validate
  | .errClr => .errClr

/-- One line of a program (R80, R81). Numbers are as written; `AsmLine.wf` checks their range. -/
inductive AsmLine where
  /-- `MNEMONIC imm`; an omitted imm is 0x00. -/
  | op (m : Mnemonic) (imm : Nat)
  /-- `.word w`, as program P5 writes an undefined word. -/
  | word (w : Nat)
  /-- `FRAME cmd, b0, ..., bk` and `FRAME cmd`. -/
  | frame (cmd : Nat) (payload : List Nat)
  /-- `RECV b0, ..., bk`. -/
  | recv (bytes : List Nat)
  /-- `CRC_OF b0, ..., bk`. -/
  | crcOf (bytes : List Nat)
  /-- `CRC_BYTE2 b`. -/
  | crcByte2 (b : Nat)
  /-- `RD <register or window[i]>`, a host action that assembles to nothing. -/
  | rd (r : BusReg)
  /-- `SEND TX`, a host action on the link that assembles to nothing. -/
  | sendTx
  deriving DecidableEq, Repr

/-- A list of operand bytes, each a number 0 to 255 (R80). -/
def bytesWf (bs : List Nat) : Bool := bs.all (· < 256)

/-- Operands in range (R80), at least one byte where the notation has b0 (R81), and no read of an address
without a name. -/
def AsmLine.wf : AsmLine → Bool
  | .op _ imm => imm < 256
  | .word w => w < 65536
  | .frame cmd payload => cmd < 256 && bytesWf payload
  | .recv bytes => bytes != [] && bytesWf bytes
  | .crcOf bytes => bytes != [] && bytesWf bytes
  | .crcByte2 b => b < 256
  | .rd r => r != .reserved
  | .sendTx => true

/-- A number of a line as an operand byte. -/
def asmByte (n : Nat) : Byte := BitVec.ofNat 8 n

/-- The operations a line stands for (R80, R81); `.word` names none. -/
def AsmLine.instrs : AsmLine → List Instr
  | .op m imm => [m.instr (asmByte imm)]
  | .word _ => []
  | .frame cmd payload => .reqStart (asmByte cmd) :: payload.map (fun b => .reqPut (asmByte b)) ++ [.reqSeal 0x00]
  | .recv bytes => .rxStart 0x00 :: bytes.map fun b => .rxPut (asmByte b)
  | .crcOf bytes => .crcClr 0x00 :: bytes.map fun b => .crcByte (asmByte b)
  | .crcByte2 b => [.crcNib (asmByte b >>> 4), .crcNib (asmByte b &&& 0x0F)]
  | .rd _ => []
  | .sendTx => []

/-- The words a line assembles to (R80). -/
def AsmLine.words : AsmLine → List Word
  | .word w => [BitVec.ofNat 16 w]
  | line => line.instrs.map encode

/-- The address of a register that has a name (R59). -/
def BusReg.addr : BusReg → Option Addr
  | .cmd => some 0x000
  | .status => some 0x001
  | .crc => some 0x002
  | .version => some 0x003
  | .len .req => some 0x004
  | .len .tx => some 0x005
  | .len .rx => some 0x006
  | .len .dec => some 0x007
  | .lastCmd => some 0x008
  | .errWord => some 0x009
  | .cap => some 0x00A
  | .window .req i => some (1#3 ++ i)
  | .window .tx i => some (2#3 ++ i)
  | .window .rx i => some (3#3 ++ i)
  | .window .dec i => some (4#3 ++ i)
  | .reserved => none

/-- A write of a word to CMD. -/
def cmdWrite (w : Word) : HostEvent := .access (.write 0x000#11 w)

/-- What the host does at the block for a line: CMD writes, and a bus read for RD. SEND TX acts on the link,
which is no part of the block (R6, R10). -/
def AsmLine.events : AsmLine → List HostEvent
  | .rd r => r.addr.toList.map fun a => .access (.read a)
  | line => line.words.map cmdWrite

/-- A program's words; none if some line is ill-formed. -/
def assemble (lines : List AsmLine) : Option (List Word) :=
  if lines.all AsmLine.wf then some (lines.flatMap AsmLine.words) else none

/-- A program's host events; none if some line is ill-formed. -/
def programEvents (lines : List AsmLine) : Option (List HostEvent) :=
  if lines.all AsmLine.wf then some (lines.flatMap AsmLine.events) else none

/-- The mnemonic a word of text names (R75). -/
def Mnemonic.ofText (t : List Char) : Option Mnemonic :=
  if t = "NOP".toList then some .nop
  else if t = "CRC_CLR".toList then some .crcClr
  else if t = "CRC_NIB".toList then some .crcNib
  else if t = "CRC_BYTE".toList then some .crcByte
  else if t = "SRST".toList then some .srst
  else if t = "REQ_START".toList then some .reqStart
  else if t = "REQ_PUT".toList then some .reqPut
  else if t = "REQ_SEAL".toList then some .reqSeal
  else if t = "RX_START".toList then some .rxStart
  else if t = "RX_PUT".toList then some .rxPut
  else if t = "DECODE".toList then some .decode
  else if t = "VALIDATE".toList then some .validate
  else if t = "ERR_CLR".toList then some .errClr
  else none

/-- The value of a digit in base 16 or below. -/
def digitOfChar (c : Char) : Option Nat :=
  if '0'.toNat ≤ c.toNat ∧ c.toNat ≤ '9'.toNat then some (c.toNat - '0'.toNat)
  else if 'A'.toNat ≤ c.toNat ∧ c.toNat ≤ 'F'.toNat then some (c.toNat - 'A'.toNat + 10)
  else if 'a'.toNat ≤ c.toNat ∧ c.toNat ≤ 'f'.toNat then some (c.toNat - 'a'.toNat + 10)
  else none

/-- The digits of a number in a base, most significant first. -/
def digitsValue (base : Nat) : Nat → List Char → Option Nat
  | acc, [] => some acc
  | acc, c :: rest =>
    match digitOfChar c with
    | some d => if d < base then digitsValue base (base * acc + d) rest else none
    | none => none

/-- A number in `0x` hexadecimal or decimal (R80). -/
def numberOfText : List Char → Option Nat
  | [] => none
  | ['0', 'x'] => none
  | '0' :: 'x' :: digits => digitsValue 16 0 digits
  | digits => digitsValue 10 0 digits

/-- The text before a comment (R80: `;` starts a comment). -/
def withoutComment (line : List Char) : List Char := line.takeWhile (· != ';')

/-- The words and commas of a line, in order; `word` holds the word being read. -/
def tokens (word : List Char) : List Char → List (List Char)
  | [] => if word = [] then [] else [word]
  | c :: rest =>
    let before := if word = [] then [] else [word]
    if c = ' ' ∨ c = '\t' then before ++ tokens [] rest
    else if c = ',' then before ++ [','] :: tokens [] rest
    else tokens (word ++ [c]) rest

/-- One or more numbers with commas between them. -/
def numberList : List (List Char) → Option (List Nat)
  | [] => none
  | [t] => (numberOfText t).map fun n => [n]
  | t :: comma :: rest =>
    if comma = [','] then
      match numberOfText t, numberList rest with
      | some n, some ns => some (n :: ns)
      | _, _ => none
    else none

/-- A register's name, or a window with its index (R59, R80). -/
def busRegOfText (t : List Char) : Option BusReg :=
  if t = "CMD".toList then some .cmd
  else if t = "STATUS".toList then some .status
  else if t = "CRC".toList then some .crc
  else if t = "VERSION".toList then some .version
  else if t = "REQ_LEN".toList then some (.len .req)
  else if t = "TX_LEN".toList then some (.len .tx)
  else if t = "RX_LEN".toList then some (.len .rx)
  else if t = "DEC_LEN".toList then some (.len .dec)
  else if t = "LAST_CMD".toList then some .lastCmd
  else if t = "ERRWORD".toList then some .errWord
  else if t = "CAP".toList then some .cap
  else
    let name := t.takeWhile (· != '[')
    let index := (t.drop (name.length + 1)).dropLast
    if t.getLast? = some ']' then
      match numberOfText index with
      | some n =>
        if n < 256 then
          if name = "REQ".toList then some (.window .req (asmByte n))
          else if name = "TX".toList then some (.window .tx (asmByte n))
          else if name = "RX".toList then some (.window .rx (asmByte n))
          else if name = "DEC".toList then some (.window .dec (asmByte n))
          else none
        else none
      | none => none
    else none

/-- A line from its words (R80, R81). -/
def lineOfTokens (head : List Char) (args : List (List Char)) : Option AsmLine :=
  if head = "FRAME".toList then
    match numberList args with
    | some (cmd :: payload) => some (.frame cmd payload)
    | _ => none
  else if head = "RECV".toList then (numberList args).map .recv
  else if head = "CRC_OF".toList then (numberList args).map .crcOf
  else if head = "CRC_BYTE2".toList then
    match args with
    | [b] => (numberOfText b).map .crcByte2
    | _ => none
  else if head = ".word".toList then
    match args with
    | [w] => (numberOfText w).map .word
    | _ => none
  else if head = "RD".toList then
    match args with
    | [r] => (busRegOfText r).map .rd
    | _ => none
  else if head = "SEND".toList then
    if args = ["TX".toList] then some .sendTx else none
  else
    match Mnemonic.ofText head, args with
    | some m, [] => some (.op m 0)
    | some m, [imm] => (numberOfText imm).map (.op m)
    | _, _ => none

/-- The line of a text: no line for an empty one, none at all (the outer option) for one that is not of the
notation or is ill-formed (R80). -/
def parseLine (text : List Char) : Option (List AsmLine) :=
  match tokens [] (withoutComment text) with
  | [] => some []
  | head :: args =>
    match lineOfTokens head args with
    | some line => if line.wf then some [line] else none
    | none => none

end Sys2Proof.Machine
end

