-- ==== Sys2Proof/Safety.lean ====
section
/-! DEFINITION. The terms the claims use: the invariants of R40, which error an operation takes (R182), the
bitwise checksum of R104 and the escapes the scan of R140 finds (R128, R150). None of them is part of the
machine. -/

namespace Sys2Proof.Machine

/-- `n` steps, one host event each, stopping where a step stops: the host's `Core.run` on this machine. -/
def runSteps : Nat → State → Result
  | 0, s => .next s
  | n + 1, s =>
    match step s with
    | .next t => runSteps n t
    | .fault r => .fault r
    | .refused r => .refused r

/-- R40.1: every buffer within the capacity. -/
abbrev Block.BuffersFit (cap : Nat) (b : Block) : Prop :=
  b.req.length ≤ cap ∧ b.tx.length ≤ cap ∧ b.rx.length ≤ cap ∧ b.dec.length ≤ cap

/-- R40.2: what an open request looks like. -/
abbrev Block.OpenRequest (b : Block) : Prop :=
  b.reqOpen = true →
    b.xstate = .idle ∧ 2 ≤ b.req.length ∧ byteAt b.req 0 = 0x01 ∧
      1 ≤ (byteAt b.req 1).toNat ∧ (byteAt b.req 1).toNat ≤ 5

/-- R40.3: what a sealed request looks like. -/
abbrev Block.SealedRequest (b : Block) : Prop :=
  b.xstate ≠ .idle →
    b.reqOpen = false ∧ 5 ≤ b.req.length ∧
      b.req = frame (byteAt b.req 1) (slice b.req 2 (b.req.length - 4)) ∧
      b.tx = stuff b.req ∧ b.lastCmd = byteAt b.req 1

/-- The invariants of R40, for a block of capacity `cap`. -/
abbrev Block.Inv (cap : Nat) (b : Block) : Prop := b.BuffersFit cap ∧ b.OpenRequest ∧ b.SealedRequest

/-- The configuration is one that R7 allows, and R40 holds. -/
abbrev State.Inv (s : State) : Prop := s.cfg.WF ∧ s.block.Inv s.cfg.bufCap

/-- While ERRSEEN is 0 no error is recorded (from R26, R183 and R172). -/
abbrev Block.ErrorRecord (b : Block) : Prop := b.errSeen = false → b.opErr = .ok ∧ b.errWord = 0x0000

/-- LAST_CMD is no command or one of the five (from R29 and R123). -/
abbrev Block.LastCmdKnown (b : Block) : Prop := b.lastCmd.toNat ≤ 5

/-- The error each operation takes, by the table of R182, the checks in the order of R185. -/
def errorOf (i : Instr) (s : State) : OpErr :=
  match i with
  | .reqStart cmd => if 1 ≤ cmd.toNat ∧ cmd.toNat ≤ 5 then .ok else .badCommand
  | .reqPut _ =>
    if s.block.reqOpen = false then .sequence
    else if s.block.req.length + 4 > s.cfg.bufCap then .overflow else .ok
  | .reqSeal _ =>
    if s.block.reqOpen = false then .sequence
    else if (stuff (frame (byteAt s.block.req 1) (s.block.req.drop 2))).length > s.cfg.bufCap then .overflow
    else .ok
  | .rxStart _ => if s.block.xstate = .frameSent then .ok else .sequence
  | .rxPut _ => if s.block.xstate = .awaitingResponse then .ok else .sequence
  | .validate _ => if s.block.xstate = .awaitingResponse then .ok else .sequence
  | .nop _ | .crcClr _ | .crcNib _ | .crcByte _ | .srst _ | .decode _ | .errClr _ => .ok

/-- The OPC values of R76, by its ranges. -/
abbrev illegalOpc (opc : Byte) : Prop :=
  (0x04 ≤ opc.toNat ∧ opc.toNat ≤ 0x0E) ∨ (0x13 ≤ opc.toNat ∧ opc.toNat ≤ 0x1F) ∨
    (0x24 ≤ opc.toNat ∧ opc.toNat ≤ 0x2F) ∨ 0x31 ≤ opc.toNat

/-- One step of the bitwise CRC with polynomial 0x1021, not reflected (R104): shift left, and the polynomial
where the bit shifted out differs from the input bit. -/
def crcBit (a : Word) (bit : Bool) : Word := (a <<< 1) ^^^ (if a.msb != bit then 0x1021 else 0x0000)

/-- The bits of a byte, most significant first. -/
def bitsOf (b : Byte) : List Bool := [b[7], b[6], b[5], b[4], b[3], b[2], b[1], b[0]]

/-- The bitwise CRC of R104: initial value 0x0000, final XOR 0x0000. -/
def bitwiseChecksum (L : List Byte) : Word := (L.flatMap bitsOf).foldl crcBit 0x0000

/-- The loop of R140 as its pseudocode has it, by index: at most `fuel` turns, from the bytes kept so far and the
index of the next byte. Every turn moves the index on, so the sequence's length is fuel enough. -/
def scanLoop (R : List Byte) : Nat → List Byte → Nat → List Byte
  | 0, out, _ => out
  | fuel + 1, out, k =>
    if k < R.length then
      if byteAt R k = 0x10 ∧ k + 1 < R.length ∧
          (byteAt R (k + 1) = 0x01 ∨ byteAt R (k + 1) = 0x04 ∨ byteAt R (k + 1) = 0x10) then
        scanLoop R fuel (out ++ [byteAt R (k + 1)]) (k + 2)
      else scanLoop R fuel (out ++ [byteAt R k]) (k + 1)
    else out

/-- For each byte of a raw sequence, whether the scan of R140 drops it as an escape. -/
def escapes : List Byte → List Bool
  | [] => []
  | [_] => [false]
  | b :: c :: rest =>
    if b = escapeMarker ∧ isControl c then true :: false :: escapes rest else false :: escapes (c :: rest)

/-- Whether the byte at index k is one the scan of R140 drops as an escape. -/
def escapeAt (R : List Byte) (k : Nat) : Bool := (escapes R).getD k false

/-- Whether an event is a CMD write of a word with the given OPC. -/
def writesOpc (opc : Byte) : HostEvent → Bool
  | .access (.write a w) => a == 0x000#11 && opcField w == opc
  | _ => false

/-- Whether an event can clear the sticky error flag (R26): a reset, or a CMD write of ERR_CLR or SRST. -/
def clearsErrors : HostEvent → Bool
  | .reset _ => true
  | .access (.write a w) => a == 0x000#11 && (opcField w == 0x30 || opcField w == 0x0F)
  | .access (.read _) => false

end Sys2Proof.Machine
end

