-- ==== Sys2Proof/Certificates/Slice0/Obligations.lean ====
section
/-! DEFINITION. The statements for the provers. Where a statement gives an instruction's next state as a record
update of the state before, the fields it does not name are unchanged: that is the instruction's frame. The block
has no memory (R51), so the frame is over the state elements, the configuration and the host's side of the bus. -/

open Sys2Proof Sys2Proof.Machine

/-! ## Encodings -/

/-- R73, R75: a word decodes to an operation exactly when it is the word of that operation, so no bit of the
encoding is dropped and no two operations share a word. -/
def Obligations.DecodeInvertsEncode : Prop :=
  ∀ (w : Word) (i : Instr), decode w = .ok i ↔ w = encode i

/-- R76: the words that decode to no operation are those whose OPC is in the listed ranges. -/
def Obligations.DecodeRejectsExactlyIllegalOpcodes : Prop :=
  ∀ w : Word, decode w = .error (.undefinedOpcode (opcField w)) ↔ illegalOpc (opcField w)

/-- R75: words written out bit by bit from the bit patterns of the opcode map, one or more of each family. -/
def Obligations.WrittenWordsDecode : Prop :=
  decode 0b0000000000000000 = .ok (.nop 0x00) ∧
  decode 0b0000001000000101 = .ok (.crcNib 0x05) ∧
  decode 0b0000001100000010 = .ok (.crcByte 0x02) ∧
  decode 0b0001000000000010 = .ok (.reqStart 0x02) ∧
  decode 0b0001001000000000 = .ok (.reqSeal 0x00) ∧
  decode 0b0010000100000100 = .ok (.rxPut 0x04) ∧
  decode 0b0010001100000111 = .ok (.validate 0x07) ∧
  decode 0b0011000000000000 = .ok (.errClr 0x00) ∧
  decode 0b0000010000000000 = .error (.undefinedOpcode 0x04)

/-! ## Steps and the host bus -/

/-- R53, R21 with the model's queue of host events (log 2, log 7): a step serves the host's next event, whatever it
is (a read, a write anywhere, a reset), on the state without that event; when the event writes to CMD a word that
decodes to i, the step is exec of i; with an empty queue nothing changes (log 3); and the word that withFetchWord places
is the one the next step runs. -/
def Obligations.StepExecutesDecodedWord : Prop :=
  (∀ (s : State) (e : HostEvent) (rest : List HostEvent),
    s.pending = e :: rest → step s = hostEvent e { s with pending := rest }) ∧
  (∀ (s : State) (w : Word) (i : Instr) (rest : List HostEvent),
    s.pending = .access (.write 0x000#11 w) :: rest → decode w = .ok i →
      step s = exec i { s with pending := rest }) ∧
  (∀ (s : State) (i : Instr), step (s.withFetchWord 16 (encode i).toNat) = exec i s) ∧
  ∀ s : State, s.pending = [] → step s = .next s

/-- R76, R183, R185: a word whose OPC is not in the map ends in ILLEGAL_OPCODE: OPERR, ERRSEEN and ERRWORD are
written, and nothing else changes, whatever the state. -/
def Obligations.IllegalOpcodeTakesError : Prop :=
  ∀ (s : State) (w : Word), illegalOpc (opcField w) →
    execute w s = .next
      { s with block := { s.block with opErr := .illegalOpcode, errSeen := true, errWord := w } }

/-- R53, R58: a write anywhere but CMD changes nothing at all, and a write to CMD executes its word. -/
def Obligations.OnlyCmdWritesExecute : Prop :=
  (∀ (s : State) (a : Addr) (w : Word), a ≠ 0x000#11 → hostEvent (.access (.write a w)) s = .next s) ∧
  ∀ (s : State) (w : Word), hostEvent (.access (.write 0x000#11 w)) s = execute w s

/-- R52, R58 with the model's record of reads (log 4): reading an address twice with nothing between returns the
same value twice, the value the register map gives it from the state before, and changes no state element. -/
def Obligations.RepeatedReadReturnsSameValue : Prop :=
  ∀ (s : State) (a : Addr) (rest : List HostEvent),
    s.pending = .access (.read a) :: .access (.read a) :: rest →
      runSteps 2 s = .next { s with pending := rest, reads := memRead s a :: memRead s a :: s.reads }

/-- R9, R58: whatever changes a state element is a CMD write or the reset input, taken from the head of the host's
queue. -/
def Obligations.BlockChangesOnlyByCmdWriteOrReset : Prop :=
  ∀ s t : State, step s = .next t → t.block ≠ s.block →
    ∃ rest, (∃ w, s.pending = .access (.write 0x000#11 w) :: rest) ∨ ∃ lost, s.pending = .reset lost :: rest

/-- R196, R180, R60: every step completes: no host event and no operation faults or is refused. The step uses up
one host event and never touches the configuration. -/
def Obligations.StepAlwaysCompletes : Prop :=
  ∀ s : State, ∃ t, step s = .next t ∧ t.pending = s.pending.tail ∧ t.cfg = s.cfg

/-- R61, R196: any run of n steps completes and has taken exactly the first n host events from the queue, and it has
served them in their order: a run is what its first event does and then the run from there. -/
def Obligations.RunsServeEventsInOrder : Prop :=
  (∀ (n : Nat) (s : State), ∃ t, runSteps n s = .next t ∧ t.pending = s.pending.drop n ∧ t.cfg = s.cfg) ∧
  (∀ (n : Nat) (s t : State) (e : HostEvent) (rest : List HostEvent), s.pending = e :: rest →
    hostEvent e { s with pending := rest } = .next t → runSteps (n + 1) s = runSteps n t) ∧
  ∀ (m n : Nat) (s t : State), runSteps m s = .next t → runSteps (m + n) s = runSteps n t

/-! ## The register map -/

/-- R31, R23, R181: each field of the STATUS word read at 0x001 is the state element it names, with the values that R23
gives the exchange states and R181 the error codes (so that XSTATE never reads 7 and OPERR never 5 to 7), bits [15:12]
read 0, a write to it is ignored, and it reads 0x0000 in the reset state. -/
def Obligations.StatusWordFields : Prop :=
  (∀ (s : State) (w : Word),
    let v := memRead s 0x001
    (v.extractLsb' 0 3).toNat =
        (match s.block.xstate with
          | .idle => 0
          | .frameSent => 1
          | .awaitingResponse => 2
          | .responseValid => 3
          | .timeout => 4
          | .checksumMismatch => 5
          | .lengthMismatch => 6) ∧
      v[3] = s.block.echoMm ∧ v[4] = s.block.rxEof ∧
      v[5] = s.block.rxOvf ∧ v[6] = s.block.reqOpen ∧ v[7] = s.block.verValid ∧
      (v.extractLsb' 8 3).toNat =
        (match s.block.opErr with
          | .ok => 0
          | .illegalOpcode => 1
          | .badCommand => 2
          | .sequence => 3
          | .overflow => 4) ∧
      (v.extractLsb' 0 3).toNat ≠ 7 ∧ (v.extractLsb' 8 3).toNat < 5 ∧
      v[11] = s.block.errSeen ∧ v.extractLsb' 12 4 = 0 ∧ memWrite 0x001 w s = .next s) ∧
  memRead State.reset 0x001 = 0x0000

/-- R30, R32, R33, R35, R36: what the one-word registers read, that writes to them are ignored, but that a write to
CMD executes its word, and that they read 0x0000 in the reset state. -/
def Obligations.OneWordRegistersRead : Prop :=
  (∀ (s : State) (w : Word),
    memRead s 0x000 = 0x0000 ∧ memWrite 0x000#11 w s = execute w s ∧
      memRead s 0x002 = s.block.crcAcc ∧ memWrite 0x002 w s = .next s ∧
      (memRead s 0x003).toNat = s.block.major.toNat * 256 + s.block.minor.toNat ∧
      memWrite 0x003 w s = .next s ∧
      (memRead s 0x008).toNat = s.block.lastCmd.toNat ∧ memWrite 0x008 w s = .next s ∧
      memRead s 0x009 = s.block.errWord ∧ memWrite 0x009 w s = .next s) ∧
  memRead State.reset 0x002 = 0x0000 ∧ memRead State.reset 0x003 = 0x0000 ∧
    memRead State.reset 0x008 = 0x0000 ∧ memRead State.reset 0x009 = 0x0000

/-- R34, R37, R25: in a block that meets the invariant of R40 the length registers read the buffers' lengths and
CAP reads BUF_CAP, with nothing in the bits above. -/
def Obligations.LengthAndCapRegistersRead : Prop :=
  ∀ s : State, s.Inv →
    (memRead s 0x004).toNat = s.block.req.length ∧ (memRead s 0x005).toNat = s.block.tx.length ∧
      (memRead s 0x006).toNat = s.block.rx.length ∧ (memRead s 0x007).toNat = s.block.dec.length ∧
      (memRead s 0x00A).toNat = s.cfg.bufCap ∧ s.block.req.length ≤ 256 ∧ s.cfg.bufCap ≤ 256

/-- R38: a window word is the buffer's byte below its length and 0x0000 from its length on, and a write to a window
is ignored. -/
def Obligations.WindowsReadBuffers : Prop :=
  ∀ (s : State) (i : Byte) (w : Word),
    (∀ (page : BitVec 3) (L : List Byte),
      (page, L) ∈ [(1, s.block.req), (2, s.block.tx), (3, s.block.rx), (4, s.block.dec)] →
        (∀ h : i.toNat < L.length, memRead s (page ++ i) = (L[i.toNat]'h).setWidth 16) ∧
        (L.length ≤ i.toNat → memRead s (page ++ i) = 0x0000) ∧
        memWrite (page ++ i) w s = .next s)

/-- R39: the reserved addresses read 0x0000 and writes to them change nothing. -/
def Obligations.ReservedAddressesReadZero : Prop :=
  ∀ (s : State) (a : Addr) (w : Word),
    ((0x00B ≤ a.toNat ∧ a.toNat ≤ 0x0FF) ∨ 0x500 ≤ a.toNat) →
      memRead s a = 0x0000 ∧ memWrite a w s = .next s

/-! ## Reset and the control operations -/

/-- R41, R171, R200: the reset input and SRST leave every state element at its reset value, whatever the state was,
and change nothing else. -/
def Obligations.ResetInputAndSoftReset : Prop :=
  ∀ (s : State) (imm : Byte),
    decode (0x0F#8 ++ imm) = .ok (.srst imm) ∧
    exec (.srst imm) s = hostEvent (.reset none) s ∧
    exec (.srst imm) s = .next
      { s with
        block :=
          { crcAcc := 0x0000, xstate := .idle, echoMm := false, rxEof := false, rxOvf := false,
            reqOpen := false, verValid := false, opErr := .ok, errSeen := false, errWord := 0x0000,
            req := [], tx := [], rx := [], dec := [], major := 0x00, minor := 0x00, lastCmd := 0x00 } }

/-- R200 with the model's free value (log 5): an access that coincides with reset is lost: the reset state results,
the word of a lost CMD write is not executed, and a lost read returns the free value, whatever it is. -/
def Obligations.AccessDuringResetIsLost : Prop :=
  ∀ (s : State) (a : Addr) (w : Word),
    hostEvent (.reset (some (.write a w))) s = hostEvent (.reset none) s ∧
    ∃ v : Word, v = Config.freeRead s.draws ∧
      hostEvent (.reset (some (.read a))) s = .next
        { s with block := Block.reset, reads := v :: s.reads, draws := s.draws + 1 }

/-- R170, R172: NOP clears OPERR alone; ERR_CLR clears the error record alone. Both run in every state. -/
def Obligations.NopAndErrClrResults : Prop :=
  ∀ (s : State) (imm : Byte),
    decode (0x00#8 ++ imm) = .ok (.nop imm) ∧
    exec (.nop imm) s = .next { s with block := { s.block with opErr := .ok } } ∧
    decode (0x30#8 ++ imm) = .ok (.errClr imm) ∧
    exec (.errClr imm) s = .next
      { s with block := { s.block with opErr := .ok, errSeen := false, errWord := 0x0000 } }

/-! ## The checksum engine -/

/-- R105, R106, R107: CRC_CLR, CRC_NIB and CRC_BYTE run in every state; each writes CRC_ACC and OPERR alone. The
nibble step is spelled out from R101 on the table of R100. -/
def Obligations.ChecksumOperationResults : Prop :=
  ∀ (s : State) (imm : Byte),
    let nib := fun (a : Word) (n : Nibble) =>
      tableAt (((a >>> 12 ^^^ n.setWidth 16) &&& 0xF).setWidth 4) ^^^ (a <<< 4)
    decode (0x01#8 ++ imm) = .ok (.crcClr imm) ∧
    exec (.crcClr imm) s = .next { s with block := { s.block with crcAcc := 0x0000, opErr := .ok } } ∧
    decode (0x02#8 ++ imm) = .ok (.crcNib imm) ∧
    exec (.crcNib imm) s = .next
      { s with block := { s.block with crcAcc := nib s.block.crcAcc (imm.extractLsb' 0 4), opErr := .ok } } ∧
    decode (0x03#8 ++ imm) = .ok (.crcByte imm) ∧
    exec (.crcByte imm) s = .next
      { s with
        block :=
          { s.block with
            crcAcc := nib (nib s.block.crcAcc (imm.extractLsb' 4 4)) (imm.extractLsb' 0 4), opErr := .ok } }

/-- R107, R81: CRC_BYTE2 b, which is CRC_NIB of the high nibble and then CRC_NIB of the low one, leaves the very
state that CRC_BYTE b leaves. -/
def Obligations.TwoNibblesMakeOneByte : Prop :=
  ∀ (s : State) (b : Byte), ∃ t u,
    exec (.crcNib (b >>> 4)) s = .next t ∧ exec (.crcNib (b &&& 0x0F)) t = .next u ∧
      exec (.crcByte b) s = .next u

/-- R104, which the spec marks as general knowledge (log 9): the table-driven checksum is the bitwise CRC-16 with
polynomial 0x1021, initial value 0x0000, nothing reflected and no final XOR; its check value is 0x31C3. -/
def Obligations.ChecksumIsBitwiseCrc : Prop :=
  (∀ L : List Byte, checksum L = bitwiseChecksum L) ∧
  checksum [0x31, 0x32, 0x33, 0x34, 0x35, 0x36, 0x37, 0x38, 0x39] = 0x31C3

/-- R108, laws 1 to 3: the checksum may be fed in pieces; leading zero bytes do not show; appending the checksum
high byte first gives zero. -/
def Obligations.ChecksumLaws : Prop :=
  (∀ L M : List Byte, checksum (L ++ M) = M.foldl byteStep (checksum L)) ∧
  (∀ (n : Nat) (L : List Byte), checksum (List.replicate n 0x00 ++ L) = checksum L) ∧
  ∀ L : List Byte, checksum (L ++ [hiByte (checksum L), loByte (checksum L)]) = 0x0000

/-- R109: REQ_SEAL and VALIDATE never read the accumulator: where one of them succeeds, the state it leaves does not
depend on CRC_ACC unless VALIDATE computed no checksum, and then CRC_ACC alone differs; where it takes an error it
takes the same one. -/
def Obligations.FramingIgnoresAccumulator : Prop :=
  ∀ (s t : State) (c : Word) (imm : Byte),
    let s' : State := { s with block := { s.block with crcAcc := c } }
    (exec (.reqSeal imm) s = .next t →
      exec (.reqSeal imm) s' = .next t ∧ t.block.opErr = .ok ∨
      exec (.reqSeal imm) s' = .next { t with block := { t.block with crcAcc := c } } ∧ t.block.opErr ≠ .ok) ∧
    (exec (.validate imm) s = .next t →
      exec (.validate imm) s' = .next t ∧ t.block.opErr = .ok ∧
        (t.block.xstate = .responseValid ∨ t.block.xstate = .checksumMismatch) ∨
      exec (.validate imm) s' = .next { t with block := { t.block with crcAcc := c } } ∧
        t.block.crcAcc = s.block.crcAcc)

/-! ## The encode direction -/

/-- R123: REQ_START with a command byte 0x01..0x05 opens a new request in every state; any other byte takes
BAD_COMMAND and changes only the error record. -/
def Obligations.ReqStartResult : Prop :=
  ∀ (s : State) (cmd : Byte),
    decode (0x10#8 ++ cmd) = .ok (.reqStart cmd) ∧
    (1 ≤ cmd.toNat ∧ cmd.toNat ≤ 5 →
      exec (.reqStart cmd) s = .next
        { s with
          block :=
            { s.block with
              req := [0x01, cmd], reqOpen := true, xstate := .idle, echoMm := false, opErr := .ok } }) ∧
    (cmd.toNat = 0 ∨ 6 ≤ cmd.toNat →
      exec (.reqStart cmd) s = .next
        { s with
          block := { s.block with opErr := .badCommand, errSeen := true, errWord := 0x10#8 ++ cmd } })

/-- R124: REQ_PUT appends the byte to an open request with room for it and the three bytes sealing adds; SEQUENCE
without an open request, and then OVERFLOW, change only the error record. -/
def Obligations.ReqPutResult : Prop :=
  ∀ (s : State) (imm : Byte),
    decode (0x11#8 ++ imm) = .ok (.reqPut imm) ∧
    (s.block.reqOpen = true → s.block.req.length + 4 ≤ s.cfg.bufCap →
      exec (.reqPut imm) s = .next
        { s with block := { s.block with req := s.block.req ++ [imm], opErr := .ok } }) ∧
    (s.block.reqOpen = true → s.cfg.bufCap < s.block.req.length + 4 →
      exec (.reqPut imm) s = .next
        { s with
          block := { s.block with opErr := .overflow, errSeen := true, errWord := 0x11#8 ++ imm } }) ∧
    (s.block.reqOpen = false →
      exec (.reqPut imm) s = .next
        { s with
          block := { s.block with opErr := .sequence, errSeen := true, errWord := 0x11#8 ++ imm } })

/-- R125, R120, R54: REQ_SEAL of an open request with command cmd and payload P stores the frame with the checksum
of [cmd] ++ P low byte first, its stuffed form, that checksum and the command, when the stuffed form fits; SEQUENCE
without an open request, and then OVERFLOW, change only the error record. That ERRWORD then holds the ignored operand
bits as written is the model's reading of R183 (DEDUCED, log 6). -/
def Obligations.ReqSealResult : Prop :=
  ∀ (s : State) (imm b0 cmd : Byte) (P : List Byte),
    let c := checksum (cmd :: P)
    let U := 0x01 :: cmd :: P ++ [c.extractLsb' 0 8, c.extractLsb' 8 8, 0x04]
    decode (0x12#8 ++ imm) = .ok (.reqSeal imm) ∧
    (s.block.reqOpen = true → s.block.req = b0 :: cmd :: P → (stuff U).length ≤ s.cfg.bufCap →
      exec (.reqSeal imm) s = .next
        { s with
          block :=
            { s.block with
              req := U, tx := stuff U, crcAcc := c, reqOpen := false, xstate := .frameSent, lastCmd := cmd,
              opErr := .ok } }) ∧
    (s.block.reqOpen = true → s.block.req = b0 :: cmd :: P → s.cfg.bufCap < (stuff U).length →
      exec (.reqSeal imm) s = .next
        { s with
          block := { s.block with opErr := .overflow, errSeen := true, errWord := 0x12#8 ++ imm } }) ∧
    (s.block.reqOpen = false →
      exec (.reqSeal imm) s = .next
        { s with
          block := { s.block with opErr := .sequence, errSeen := true, errWord := 0x12#8 ++ imm } })

/-- R121: stuffing by position: the first and the last byte are emitted as they are, and each byte between them is
emitted with exactly one escape-marker before it when it is 0x01, 0x04 or 0x10, and alone otherwise. -/
def Obligations.StuffingEscapesInteriorControls : Prop :=
  stuff [] = [] ∧ (∀ a : Byte, stuff [a] = [a]) ∧
  ∀ (a z : Byte) (M : List Byte),
    stuff (a :: M ++ [z]) =
      a :: M.flatMap (fun b => if b = 0x01 ∨ b = 0x04 ∨ b = 0x10 then [0x10, b] else [b]) ++ [z]

/-- R126, R127: the stuffed length is the length plus the number of interior control values, so it lies between the
length and twice the length less two. -/
def Obligations.StuffedLength : Prop :=
  (∀ U : List Byte, (stuff U).length = U.length + (slice U 1 (U.length - 2)).countP isControl) ∧
  ∀ U : List Byte, 2 ≤ U.length →
    U.length ≤ (stuff U).length ∧ (stuff U).length ≤ 2 * U.length - 2

/-- R7, R127, R125: an open request with an empty payload always seals in a block whose capacity R7 allows, and its
stuffed frame has 5 to 8 bytes; and any open request with `2 * (REQ_LEN + 3) - 2 <= BUF_CAP` seals. -/
def Obligations.ShortRequestsAlwaysSeal : Prop :=
  ∀ (s : State) (imm b0 cmd : Byte) (P : List Byte),
    s.cfg.WF → s.block.reqOpen = true → s.block.req = b0 :: cmd :: P →
      (P = [] ∨ 2 * (s.block.req.length + 3) - 2 ≤ s.cfg.bufCap) →
        ∃ t, exec (.reqSeal imm) s = .next t ∧ t.block.opErr = .ok ∧ t.block.xstate = .frameSent ∧
          (P = [] → 5 ≤ t.block.tx.length ∧ t.block.tx.length ≤ 8)

/-- R128: after a REQ_SEAL that succeeds, TX starts with 0x01 and ends with 0x04, and every other 0x01 or 0x04 in it
stands right after a 0x10 that is itself an escape. -/
def Obligations.SealedFrameDelimiters : Prop :=
  ∀ (s t : State) (imm : Byte), exec (.reqSeal imm) s = .next t → t.block.opErr = .ok →
    t.block.tx.head? = some 0x01 ∧ t.block.tx.getLast? = some 0x04 ∧
    ∀ k, 0 < k → k + 1 < t.block.tx.length →
      (byteAt t.block.tx k = 0x01 ∨ byteAt t.block.tx k = 0x04) →
        byteAt t.block.tx (k - 1) = 0x10 ∧ escapeAt t.block.tx (k - 1) = true

/-- R122: in the stuffed request of a command whose code is a control value, ReadVersion or ReadCrc, the command byte
stands at index 2 with the escape-marker before it; in that of any other command it stands at index 1. -/
def Obligations.CommandByteEscaped : Prop :=
  ∀ (s t : State) (imm b0 cmd : Byte) (P : List Byte),
    s.block.req = b0 :: cmd :: P → exec (.reqSeal imm) s = .next t → t.block.opErr = .ok →
      (cmd = 0x01 ∨ cmd = 0x04 → byteAt t.block.tx 1 = 0x10 ∧ byteAt t.block.tx 2 = cmd) ∧
      (cmd = 0x02 ∨ cmd = 0x03 ∨ cmd = 0x05 → byteAt t.block.tx 1 = cmd)

/-! ## The decode direction -/

/-- R140: the decoder is the loop of the rule's pseudocode, one pass by index with a lookahead of one byte, on every
byte sequence. -/
def Obligations.UnstuffIsOneScan : Prop :=
  ∀ R : List Byte, unstuff R = scanLoop R R.length [] 0

/-- R149: removing the stuffing gives back what was stuffed, for every sequence that does not start with 0x10 or has
at most one byte, and so for every frame; the precondition matters. -/
def Obligations.UnstuffInvertsStuff : Prop :=
  (∀ U : List Byte, U.length ≤ 1 ∨ byteAt U 0 ≠ 0x10 → unstuff (stuff U) = U) ∧
  (∀ (cmd : Byte) (P : List Byte), unstuff (stuff (frame cmd P)) = frame cmd P) ∧
  unstuff (stuff [0x10, 0x04]) = [0x04]

/-- R150: on the stuffed form of a frame the scan drops neither the begin-marker nor the byte before the end-marker:
no pair takes in a delimiter. -/
def Obligations.NoPairAtTheDelimiters : Prop :=
  ∀ (cmd : Byte) (P : List Byte),
    let T := stuff (frame cmd P)
    escapeAt T 0 = false ∧ escapeAt T (T.length - 2) = false ∧ escapeAt T (T.length - 1) = false

/-- R151: removing the stuffing changes nothing exactly when no 0x10 stands right before a control value; an
unescaped frame can hold such a pair, so decoding is not idempotent. -/
def Obligations.UnstuffFixedPoints : Prop :=
  (∀ U : List Byte, unstuff U = U ↔
    ∀ k, k + 1 < U.length → byteAt U k = 0x10 → isControl (byteAt U (k + 1)) = false) ∧
  unstuff [0x01, 0x01, 0x21, 0x10, 0x04] = [0x01, 0x01, 0x21, 0x04]

/-- R141: RX_START runs exactly in FrameSent; it empties RX, clears RX_EOF and RX_OVF and leaves the rest, DEC among
it. Elsewhere it takes SEQUENCE; that ERRWORD then holds the ignored operand bits as written is the model's reading of
R183 (DEDUCED, log 6). -/
def Obligations.RxStartResult : Prop :=
  ∀ (s : State) (imm : Byte),
    decode (0x20#8 ++ imm) = .ok (.rxStart imm) ∧
    (s.block.xstate = .frameSent →
      exec (.rxStart imm) s = .next
        { s with
          block :=
            { s.block with rx := [], rxEof := false, rxOvf := false, xstate := .awaitingResponse, opErr := .ok } }) ∧
    (s.block.xstate ≠ .frameSent →
      exec (.rxStart imm) s = .next
        { s with
          block := { s.block with opErr := .sequence, errSeen := true, errWord := 0x20#8 ++ imm } })

/-- R142: RX_PUT in AwaitingResponse appends the byte while RX has room; when RX is full it drops the byte and sets
RX_OVF; a byte 0x04, stored or dropped, sets RX_EOF; neither flag is cleared. Elsewhere it takes SEQUENCE. -/
def Obligations.RxPutResult : Prop :=
  ∀ (s : State) (imm : Byte),
    decode (0x21#8 ++ imm) = .ok (.rxPut imm) ∧
    (s.block.xstate = .awaitingResponse → s.block.rx.length < s.cfg.bufCap →
      exec (.rxPut imm) s = .next
        { s with
          block :=
            { s.block with
              rx := s.block.rx ++ [imm], rxEof := s.block.rxEof || imm == 0x04, opErr := .ok } }) ∧
    (s.block.xstate = .awaitingResponse → s.cfg.bufCap ≤ s.block.rx.length →
      exec (.rxPut imm) s = .next
        { s with
          block := { s.block with rxOvf := true, rxEof := s.block.rxEof || imm == 0x04, opErr := .ok } }) ∧
    (s.block.xstate ≠ .awaitingResponse →
      exec (.rxPut imm) s = .next
        { s with
          block := { s.block with opErr := .sequence, errSeen := true, errWord := 0x21#8 ++ imm } })

/-- R142, R196, R205: handing a whole sequence of raw bytes to RX_PUT, one CMD write each, ends with RX holding the
first BUF_CAP of all the bytes since it was emptied, RX_OVF risen exactly when some did not fit, and RX_EOF risen
exactly when a raw 0x04 was among them. -/
def Obligations.ReceivedSequence : Prop :=
  ∀ (s : State) (bs : List Byte) (rest : List HostEvent),
    s.block.xstate = .awaitingResponse → s.block.rx.length ≤ s.cfg.bufCap → bs ≠ [] →
      s.pending = bs.map (fun b => .access (.write 0x000#11 (0x21#8 ++ b))) ++ rest →
        runSteps bs.length s = .next
          { s with
            pending := rest
            block :=
              { s.block with
                rx := (s.block.rx ++ bs).take s.cfg.bufCap
                rxOvf := s.block.rxOvf || decide (s.cfg.bufCap < s.block.rx.length + bs.length)
                rxEof := s.block.rxEof || bs.contains 0x04
                opErr := .ok } }

/-- R143: DECODE writes DEC, from RX and not from DEC, and OPERR, in every state; doing it twice is doing it once. -/
def Obligations.DecodeOperationResult : Prop :=
  ∀ (s : State) (imm imm' : Byte),
    decode (0x22#8 ++ imm) = .ok (.decode imm) ∧
    ∃ t, exec (.decode imm) s = .next t ∧
      t = { s with block := { s.block with dec := unstuff s.block.rx, opErr := .ok } } ∧
      exec (.decode imm') t = .next t

/-- R144, R145, R146: VALIDATE in AwaitingResponse answers, in this order of priority, Timeout when RX is empty,
LengthMismatch when the decoded response D is shorter than max(IMM8, base length), ResponseValid when the checksum
of D[1 .. L-4] is D[L-3] + 256 * D[L-2], and ChecksumMismatch otherwise; DEC is D; CRC_ACC is the computed checksum
in the last two cases and unchanged in the first two. Everything R144 says is unchanged is. For a response cut at an
escaped 0x04 or by the drop at BUF_CAP, and for one with three or more extra bytes, that the third case is ResponseValid
is the model's choice of R144's pseudocode over the sentences of R205 and R208 (DEDUCED, log 14, 17, 18). -/
def Obligations.ValidateVerdict : Prop :=
  ∀ (s : State) (m : Byte), s.block.xstate = .awaitingResponse →
    let D := unstuff s.block.rx
    let L := D.length
    let need := max m.toNat (if s.block.lastCmd = 0x01 then 7 else 5)
    let c := checksum ((D.drop 1).take (L - 4))
    let e := (byteAt D (L - 3)).toNat + 256 * (byteAt D (L - 2)).toNat
    ∃ t, exec (.validate m) s = .next t ∧
      (s.block.rx = [] → t.block.xstate = .timeout ∧ t.block.crcAcc = s.block.crcAcc) ∧
      (s.block.rx ≠ [] → L < need →
        t.block.xstate = .lengthMismatch ∧ t.block.crcAcc = s.block.crcAcc) ∧
      (s.block.rx ≠ [] → need ≤ L → c.toNat = e →
        t.block.xstate = .responseValid ∧ t.block.crcAcc = c) ∧
      (s.block.rx ≠ [] → need ≤ L → c.toNat ≠ e →
        t.block.xstate = .checksumMismatch ∧ t.block.crcAcc = c) ∧
      t = { s with
            block :=
              { s.block with
                dec := D, opErr := .ok, xstate := t.block.xstate, crcAcc := t.block.crcAcc
                echoMm := t.block.echoMm, major := t.block.major, minor := t.block.minor
                verValid := t.block.verValid } }

/-- R147: after EraseFlash, VALIDATE sets ECHO_MM exactly when there was a response and it is shorter than 5 decoded
bytes or differs from the request in the first 5; after any other command it clears ECHO_MM; and the comparison does not change
XSTATE: with any other request to compare with, the result is the same. -/
def Obligations.ValidateEcho : Prop :=
  ∀ (s t : State) (m : Byte), s.block.xstate = .awaitingResponse → exec (.validate m) s = .next t →
    let D := unstuff s.block.rx
    (s.block.lastCmd = 0x02 →
      (t.block.echoMm = true ↔
        s.block.rx ≠ [] ∧ (D.length < 5 ∨ ∃ k, k < 5 ∧ D[k]? ≠ s.block.req[k]?))) ∧
    (s.block.lastCmd ≠ 0x02 → t.block.echoMm = false) ∧
    ∀ (req' : List Byte) (t' : State),
      exec (.validate m) { s with block := { s.block with req := req' } } = .next t' →
        t'.block.xstate = t.block.xstate

/-- R148: after ReadVersion, a VALIDATE that ends in ResponseValid takes MAJOR and MINOR from the decoded bytes 2 and
3 and sets VER_VALID; with any other result it clears VER_VALID and keeps them; after any other command all three
keep their values. -/
def Obligations.ValidateVersion : Prop :=
  ∀ (s t : State) (m : Byte), s.block.xstate = .awaitingResponse → exec (.validate m) s = .next t →
    let D := unstuff s.block.rx
    (s.block.lastCmd = 0x01 → t.block.xstate = .responseValid →
      D[2]? = some t.block.major ∧ D[3]? = some t.block.minor ∧ t.block.verValid = true) ∧
    (s.block.lastCmd = 0x01 → t.block.xstate ≠ .responseValid →
      t.block.major = s.block.major ∧ t.block.minor = s.block.minor ∧ t.block.verValid = false) ∧
    (s.block.lastCmd ≠ 0x01 →
      t.block.major = s.block.major ∧ t.block.minor = s.block.minor ∧
        t.block.verValid = s.block.verValid)

/-- R144: VALIDATE outside AwaitingResponse takes SEQUENCE, and so VALIDATE runs at most once per exchange. After a
VALIDATE, whatever the host does for n events, another VALIDATE takes SEQUENCE: in every state as long as none of the
events is a CMD write of RX_START, and after a VALIDATE that ran, in a state that meets the invariant of R40, as long as
none is a CMD write of REQ_START, which starts a new exchange. -/
def Obligations.ValidateRunsOncePerExchange : Prop :=
  ∀ (s : State) (m : Byte),
    decode (0x23#8 ++ m) = .ok (.validate m) ∧
    (s.block.xstate ≠ .awaitingResponse →
      exec (.validate m) s = .next
        { s with
          block := { s.block with opErr := .sequence, errSeen := true, errWord := 0x23#8 ++ m } }) ∧
    ∀ (t u : State) (n : Nat) (m' : Byte), exec (.validate m) s = .next t →
      ((∀ e ∈ t.pending.take n, writesOpc 0x20 e = false) ∨
        (s.Inv ∧ t.block.opErr = .ok ∧ ∀ e ∈ t.pending.take n, writesOpc 0x10 e = false)) →
      runSteps n t = .next u →
        exec (.validate m') u = .next
          { u with
            block := { u.block with opErr := .sequence, errSeen := true, errWord := 0x23#8 ++ m' } }

/-- R152: what VALIDATE answers does not depend on the decoded response's first or last byte, nor on RX_OVF, RX_EOF or
the request, the EraseFlash echo apart: for two responses of one length that agree at every index strictly between, the
result is the same, and so are CRC_ACC and the version where they were the same before, and ECHO_MM after any command
but EraseFlash. -/
def Obligations.ValidateIgnoresDelimiters : Prop :=
  ∀ (s s' t t' : State) (m : Byte),
    s.block.xstate = .awaitingResponse → s'.block.xstate = .awaitingResponse →
      s.block.lastCmd = s'.block.lastCmd →
      (unstuff s.block.rx).length = (unstuff s'.block.rx).length →
      (∀ k, 0 < k → k + 1 < (unstuff s.block.rx).length →
        byteAt (unstuff s.block.rx) k = byteAt (unstuff s'.block.rx) k) →
      exec (.validate m) s = .next t → exec (.validate m) s' = .next t' →
        t.block.xstate = t'.block.xstate ∧
        (s.block.crcAcc = s'.block.crcAcc → t.block.crcAcc = t'.block.crcAcc) ∧
        (s.block.major = s'.block.major → t.block.major = t'.block.major) ∧
        (s.block.minor = s'.block.minor → t.block.minor = t'.block.minor) ∧
        (s.block.verValid = s'.block.verValid → t.block.verValid = t'.block.verValid) ∧
        (s.block.lastCmd ≠ 0x02 → t.block.echoMm = t'.block.echoMm)

/-- R208: bytes after the response's end-marker spoil it. RX holding a frame's stuffed form and then one or two more
bytes, whatever they are, ends in ChecksumMismatch where the frame alone meets the required length; with three more
bytes the sentence of R208 fails against R144 and R146, which the model follows (DEDUCED, log 14), and the result can be
ResponseValid: the bytes can decode to what another command and payload's whole frame decodes to. -/
def Obligations.ExtraBytesMakeChecksumMismatch : Prop :=
  (∀ (s : State) (m cmd : Byte) (P extra : List Byte), s.block.xstate = .awaitingResponse →
    s.block.rx = stuff (frame cmd P) ++ extra → (extra.length = 1 ∨ extra.length = 2) →
      max m.toNat (if s.block.lastCmd = 0x01 then 7 else 5) ≤ (frame cmd P).length →
        ∃ t, exec (.validate m) s = .next t ∧ t.block.xstate = .checksumMismatch) ∧
  ∀ (s : State), s.block.xstate = .awaitingResponse → s.block.lastCmd = 0x02 →
    s.block.rx = stuff (frame 0x02 []) ++ [0xC7, 0xD8, 0x04] →
      unstuff s.block.rx = frame 0x02 [0x42, 0x20, 0x04] ∧
        ∃ t, exec (.validate 0x05) s = .next t ∧ t.block.xstate = .responseValid

/-- R40.4: right after DECODE, and right after a VALIDATE that succeeds, DEC is no longer than RX. -/
def Obligations.DecNoLongerThanRx : Prop :=
  ∀ (s t : State) (imm : Byte),
    (exec (.decode imm) s = .next t → t.block.dec.length ≤ t.block.rx.length) ∧
    (exec (.validate imm) s = .next t → t.block.opErr = .ok → t.block.dec.length ≤ t.block.rx.length)

/-! ## Operation errors -/

/-- R182, R183, R184, R185: every operation completes in every state. Where the table of R182 gives it an error, the
state after is the state before with OPERR that error, ERRSEEN 1 and ERRWORD the operation's word; where it does
not, OPERR is 0, and ERRSEEN and ERRWORD are as they were except after SRST and ERR_CLR, which clear them. A word of
an undefined OPC leaves the same record, with ILLEGAL_OPCODE. That ERRWORD holds the ignored operand bits of a failed
REQ_SEAL or RX_START as written is the model's reading of R183 (DEDUCED, log 6). -/
def Obligations.ErrorsArePrecise : Prop :=
  (∀ (i : Instr) (s : State), ∃ t, exec i s = .next t ∧
    (errorOf i s ≠ .ok →
      t = { s with
            block := { s.block with opErr := errorOf i s, errSeen := true, errWord := encode i } }) ∧
    (errorOf i s = .ok →
      t.block.opErr = .ok ∧ t.pending = s.pending ∧ t.cfg = s.cfg ∧ t.reads = s.reads ∧ t.draws = s.draws ∧
      ((∃ imm, i = .srst imm ∨ i = .errClr imm) → t.block.errSeen = false ∧ t.block.errWord = 0x0000) ∧
      ((∀ imm, i ≠ .srst imm ∧ i ≠ .errClr imm) →
        t.block.errSeen = s.block.errSeen ∧ t.block.errWord = s.block.errWord))) ∧
  ∀ (s : State) (w : Word), illegalOpc (opcField w) →
    ∃ t, execute w s = .next t ∧
      t = { s with block := { s.block with opErr := .illegalOpcode, errSeen := true, errWord := w } }

/-- R77, R123: the operand values that end in BAD_COMMAND are exactly the ill-formed ones, a REQ_START command byte
outside 0x01..0x05, whatever the state; no other operation and no other operand value ends so. -/
def Obligations.BadCommandExactlyForIllFormedOperands : Prop :=
  ∀ (i : Instr) (s : State),
    (∃ t, exec i s = .next t ∧ t.block.opErr = .badCommand) ↔ i.wf = false

/-- R26, R186: ERRSEEN is sticky over runs of any length: once 1 it stays 1 through every host event but a reset and
a CMD write of ERR_CLR or SRST. -/
def Obligations.ErrSeenIsSticky : Prop :=
  ∀ (n : Nat) (s t : State), s.block.errSeen = true →
    (∀ e ∈ s.pending.take n, clearsErrors e = false) → runSteps n s = .next t →
      t.block.errSeen = true

/-- R77, R74: the ignored operand bits make no difference: an operation without an operand gives the same state
whatever IMM8 is, and CRC_NIB whatever IMM8[7:4] is; where REQ_SEAL or RX_START takes an error the recorded word
alone differs (log 6). -/
def Obligations.IgnoredOperandBitsMakeNoDifference : Prop :=
  ∀ (s : State) (a b : Byte),
    exec (.nop a) s = exec (.nop b) s ∧ exec (.crcClr a) s = exec (.crcClr b) s ∧
    exec (.srst a) s = exec (.srst b) s ∧ exec (.decode a) s = exec (.decode b) s ∧
    exec (.errClr a) s = exec (.errClr b) s ∧
    (a.extractLsb' 0 4 = b.extractLsb' 0 4 → exec (.crcNib a) s = exec (.crcNib b) s) ∧
    (∀ t u, exec (.reqSeal a) s = .next t → exec (.reqSeal b) s = .next u →
      (t.block.opErr = .ok → t = u) ∧
      t = { u with block := { u.block with errWord := t.block.errWord } }) ∧
    (∀ t u, exec (.rxStart a) s = .next t → exec (.rxStart b) s = .next u →
      (t.block.opErr = .ok → t = u) ∧
      t = { u with block := { u.block with errWord := t.block.errWord } })

/-! ## Rules of the whole machine -/

/-- R22, R23, R24, R26, R27, R28, R29, R183, R184, R207: which operations can write which state elements. CRC_ACC:
CRC_CLR, CRC_NIB, CRC_BYTE, REQ_SEAL, VALIDATE, SRST. XSTATE: REQ_START, REQ_SEAL, RX_START, VALIDATE, SRST. ECHO_MM:
REQ_START, VALIDATE, SRST. RX_EOF and RX_OVF: RX_START, RX_PUT, SRST. REQ_OPEN: REQ_START, REQ_SEAL, SRST. VER_VALID:
VALIDATE, SRST. REQ: REQ_START, REQ_PUT, REQ_SEAL, SRST. TX and LAST_CMD: REQ_SEAL, SRST. RX: RX_START, RX_PUT, SRST.
DEC: DECODE, VALIDATE, SRST. MAJOR and MINOR: VALIDATE, SRST. Every operation writes OPERR, with the code the table of
R182 gives it; ERRSEEN and ERRWORD: an operation that ends in an error, SRST, ERR_CLR. -/
def Obligations.WritersOfEachElement : Prop :=
  ∀ (i : Instr) (s t : State), exec i s = .next t →
    (t.block.crcAcc ≠ s.block.crcAcc → ∃ imm, i = .crcClr imm ∨ i = .crcNib imm ∨ i = .crcByte imm ∨
      i = .reqSeal imm ∨ i = .validate imm ∨ i = .srst imm) ∧
    (t.block.xstate ≠ s.block.xstate → ∃ imm, i = .reqStart imm ∨ i = .reqSeal imm ∨ i = .rxStart imm ∨
      i = .validate imm ∨ i = .srst imm) ∧
    (t.block.echoMm ≠ s.block.echoMm → ∃ imm, i = .reqStart imm ∨ i = .validate imm ∨ i = .srst imm) ∧
    (t.block.rxEof ≠ s.block.rxEof ∨ t.block.rxOvf ≠ s.block.rxOvf →
      ∃ imm, i = .rxStart imm ∨ i = .rxPut imm ∨ i = .srst imm) ∧
    (t.block.reqOpen ≠ s.block.reqOpen → ∃ imm, i = .reqStart imm ∨ i = .reqSeal imm ∨ i = .srst imm) ∧
    (t.block.verValid ≠ s.block.verValid → ∃ imm, i = .validate imm ∨ i = .srst imm) ∧
    (t.block.req ≠ s.block.req → ∃ imm, i = .reqStart imm ∨ i = .reqPut imm ∨ i = .reqSeal imm ∨ i = .srst imm) ∧
    (t.block.tx ≠ s.block.tx ∨ t.block.lastCmd ≠ s.block.lastCmd → ∃ imm, i = .reqSeal imm ∨ i = .srst imm) ∧
    (t.block.rx ≠ s.block.rx → ∃ imm, i = .rxStart imm ∨ i = .rxPut imm ∨ i = .srst imm) ∧
    (t.block.dec ≠ s.block.dec → ∃ imm, i = .decode imm ∨ i = .validate imm ∨ i = .srst imm) ∧
    (t.block.major ≠ s.block.major ∨ t.block.minor ≠ s.block.minor → ∃ imm, i = .validate imm ∨ i = .srst imm) ∧
    t.block.opErr = errorOf i s ∧
    (t.block.errSeen ≠ s.block.errSeen ∨ t.block.errWord ≠ s.block.errWord →
      errorOf i s ≠ .ok ∨ ∃ imm, i = .srst imm ∨ i = .errClr imm)

/-- R23: how each exchange state is entered. A step that changes XSTATE into Idle is a reset or the CMD write of SRST
or REQ_START; into FrameSent, of REQ_SEAL; into AwaitingResponse, of RX_START from FrameSent; into a result state, of
VALIDATE from AwaitingResponse. -/
def Obligations.ExchangeStateTransitions : Prop :=
  ∀ s t : State, step s = .next t → t.block.xstate ≠ s.block.xstate →
    (∃ lost rest, s.pending = .reset lost :: rest ∧ t.block.xstate = .idle) ∨
    ∃ w i rest, s.pending = .access (.write 0x000#11 w) :: rest ∧ decode w = .ok i ∧
      ((∃ imm, (i = .srst imm ∨ i = .reqStart imm) ∧ t.block.xstate = .idle) ∨
       (∃ imm, i = .reqSeal imm ∧ t.block.xstate = .frameSent) ∨
       (∃ imm, i = .rxStart imm ∧ s.block.xstate = .frameSent ∧ t.block.xstate = .awaitingResponse) ∨
       (∃ imm, i = .validate imm ∧ s.block.xstate = .awaitingResponse ∧
         (t.block.xstate = .timeout ∨ t.block.xstate = .lengthMismatch ∨
           t.block.xstate = .checksumMismatch ∨ t.block.xstate = .responseValid)))

/-- R41, R40, R7: the reset state meets the invariant, with every state element at the value R41 gives and the
default capacity. -/
def Obligations.ResetStateMeetsInvariant : Prop :=
  State.reset.Inv ∧ State.reset.block = Block.reset ∧ State.reset.cfg.bufCap = 128 ∧
  ∀ cfg : Config, cfg.WF → Block.Inv cfg.bufCap Block.reset

/-- R40: every step keeps the invariant: the buffers within the capacity, an open request well begun in Idle, and in
every other exchange state a sealed request with TX its stuffed form and LAST_CMD its command. -/
def Obligations.StepKeepsExchangeInvariant : Prop :=
  ∀ s t : State, s.Inv → step s = .next t → t.Inv

/-- R40, R41 over whole runs: from the reset state of a block with any capacity R7 allows, whatever the host does and
for as long as it does it, the run completes and ends in a state that meets the invariant. -/
def Obligations.EveryRunKeepsExchangeInvariant : Prop :=
  ∀ (cfg : Config) (events : List HostEvent) (n : Nat), cfg.WF →
    ∃ t, runSteps n { State.reset with cfg := cfg, pending := events } = .next t ∧ t.Inv ∧ t.cfg = cfg

/-- R26, R183, R172, R29: every step keeps two more invariants: while ERRSEEN is 0 no error is recorded, and (in
states that meet the invariant of R40) LAST_CMD is 0x00 or one of the five commands. -/
def Obligations.StepKeepsErrorRecordAndLastCmd : Prop :=
  ∀ s t : State, step s = .next t →
    (s.block.ErrorRecord → t.block.ErrorRecord) ∧
    (s.Inv → s.block.LastCmdKnown → t.block.LastCmdKnown)

/-- R203, R149, R145: a whole exchange in the order of the host procedure, from any state that meets the bounds of R7.
The host frames a command and a payload whose stuffed frame fits, starts the response, hands back exactly the bytes it
found in TX, and validates: every operation succeeds, DEC is the request's frame, there is no echo mismatch, and the
result is ResponseValid, but LengthMismatch for a ReadVersion request with fewer than two payload bytes, whose echo is
shorter than the 7 bytes a ReadVersion response has at least. -/
def Obligations.EchoedExchangeIsValid : Prop :=
  ∀ (s : State) (cmd : Byte) (P : List Byte) (rest : List HostEvent),
    let U := frame cmd P
    let ops : List Instr :=
      .reqStart cmd :: P.map .reqPut ++ [.reqSeal 0x00, .rxStart 0x00] ++ (stuff U).map .rxPut ++ [.validate 0x05]
    s.cfg.WF → 1 ≤ cmd.toNat → cmd.toNat ≤ 5 → (stuff U).length ≤ s.cfg.bufCap →
      s.pending = ops.map (fun i => .access (.write 0x000#11 (encode i))) ++ rest →
        ∃ t, runSteps ops.length s = .next t ∧ t.pending = rest ∧
          t.block.xstate = (if cmd = 0x01 ∧ P.length < 2 then .lengthMismatch else .responseValid) ∧
          t.block.echoMm = false ∧ t.block.req = U ∧ t.block.tx = stuff U ∧
          t.block.rx = stuff U ∧ t.block.dec = U ∧ t.block.lastCmd = cmd ∧ t.block.rxOvf = false ∧
          t.block.errSeen = s.block.errSeen ∧ t.block.errWord = s.block.errWord ∧ t.block.opErr = .ok
end

