-- ==== Sys2Proof/Laws/Codec.lean ====
section
/-! SUPPORT. The recursive form of stuffing and the small facts about the codec's functions. -/

namespace Sys2Proof.Machine

/-- `stuff` after its first byte, by recursion: every byte but the last is a candidate for an escape. -/
def stuffTail : List Byte → List Byte
  | [] => []
  | [z] => [z]
  | b :: c :: rest => (if isControl b then [escapeMarker, b] else [b]) ++ stuffTail (c :: rest)

theorem flatMap_stuffByte (L : List Byte) (k n : Nat) (hk : 0 < k) (hn : n = k + L.length) :
    (L.zipIdx k).flatMap (fun p => stuffByte n p.2 p.1) = stuffTail L := by
  induction L generalizing k with
  | nil => rfl
  | cons b L ih =>
    rw [List.length_cons] at hn
    rw [List.zipIdx_cons, List.flatMap_cons, ih (k + 1) (by omega) (by omega)]
    cases L with
    | nil => simp [stuffTail, stuffByte, hn]
    | cons c rest =>
      rw [List.length_cons] at hn
      simp [stuffTail, stuffByte, hk, show k < n - 1 by omega]

@[simp] theorem stuff_nil : stuff [] = [] := rfl

/-- The first byte is emitted as it is; the rest goes through `stuffTail`. -/
theorem stuff_cons (a : Byte) (L : List Byte) : stuff (a :: L) = a :: stuffTail L := by
  rw [stuff, List.zipIdx_cons, List.flatMap_cons, flatMap_stuffByte L _ _ (by simp) (by simp; omega)]
  simp [stuffByte]

/-- A pair is collapsed and the scan resumes after it (R140). -/
theorem unstuff_pair {c : Byte} (hc : isControl c = true) (rest : List Byte) :
    unstuff (escapeMarker :: c :: rest) = c :: unstuff rest := by
  simp [unstuff, hc]

/-- A byte that is no escape-marker is kept (R140). -/
theorem unstuff_keep {b : Byte} (hb : b ≠ escapeMarker) (rest : List Byte) :
    unstuff (b :: rest) = b :: unstuff rest := by
  cases rest <;> simp [unstuff, hb]

/-- A byte that is no control value is kept. -/
theorem unstuff_keep_of_not_control {b : Byte} (hb : isControl b = false) (rest : List Byte) :
    unstuff (b :: rest) = b :: unstuff rest :=
  unstuff_keep (fun h => by simp [h, isControl] at hb) rest

/-- Removing the stuffing never makes a sequence longer. -/
theorem length_unstuff_le : ∀ R : List Byte, (unstuff R).length ≤ R.length
  | [] => by simp [unstuff]
  | [_] => by simp [unstuff]
  | b :: c :: rest => by
    have h1 := length_unstuff_le rest
    have h2 := length_unstuff_le (c :: rest)
    simp only [unstuff]
    split <;> simp only [List.length_cons] at * <;> omega

/-- There is one mark for each byte. -/
@[simp] theorem length_escapes : ∀ R : List Byte, (escapes R).length = R.length
  | [] => rfl
  | [_] => rfl
  | b :: c :: rest => by
    have h1 := length_escapes rest
    have h2 := length_escapes (c :: rest)
    simp only [escapes]
    split <;> simp_all

/-- `len(frame(cmd, P)) = len(P) + 5` (R120). -/
@[simp] theorem length_frame (cmd : Byte) (P : List Byte) : (frame cmd P).length = P.length + 5 := by
  simp [frame]

/-- The checksum of two pieces, fed one after the other. -/
theorem foldl_byteStep_append (L M : List Byte) (a : Word) :
    (L ++ M).foldl byteStep a = M.foldl byteStep (L.foldl byteStep a) := List.foldl_append

end Sys2Proof.Machine
end

