-- ==== Sys2Proof/Laws/Decode.lean ====
section
/-! SUPPORT. The fields of an instruction word, and what the decoder reads from each OPC. -/

namespace Sys2Proof

/-- The high part of a concatenation. -/
theorem extract_append_high {m n : Nat} (x : BitVec m) (y : BitVec n) : (x ++ y).extractLsb' n m = x := by
  ext i hi
  simp only [BitVec.getElem_extractLsb', BitVec.getLsbD_append]
  rw [if_neg (by omega), show n + i - n = i by omega, BitVec.getLsbD_eq_getElem hi]

/-- The low part of a concatenation. -/
theorem extract_append_low {m n : Nat} (x : BitVec m) (y : BitVec n) : (x ++ y).extractLsb' 0 n = y := by
  ext i hi
  simp only [BitVec.getElem_extractLsb', BitVec.getLsbD_append]
  rw [if_pos (by omega), Nat.zero_add, BitVec.getLsbD_eq_getElem hi]

@[simp] theorem opcField_append (opc imm : Byte) : opcField (opc ++ imm) = opc := extract_append_high opc imm

@[simp] theorem immField_append (opc imm : Byte) : immField (opc ++ imm) = imm := extract_append_low opc imm

/-- A word is its two fields. -/
theorem opcField_append_immField (w : Word) : opcField w ++ immField w = w := by
  unfold opcField immField
  ext i hi
  simp only [BitVec.getElem_append, BitVec.getElem_extractLsb']
  split
  · simp [BitVec.getLsbD_eq_getElem hi]
  · rw [show 8 + (i - 8) = i by omega, BitVec.getLsbD_eq_getElem hi]

end Sys2Proof
end

