-- ==== Sys2Proof/Laws/State.lean ====
section
/-! SUPPORT. What each update of the state leaves in each field. -/

namespace Sys2Proof.Machine

variable (s : State) (b : Block) (v w : Word)

@[simp] theorem State.setBlock_cfg : (s.setBlock b).cfg = s.cfg := rfl
@[simp] theorem State.setBlock_block : (s.setBlock b).block = b := rfl
@[simp] theorem State.setBlock_pending : (s.setBlock b).pending = s.pending := rfl
@[simp] theorem State.setBlock_reads : (s.setBlock b).reads = s.reads := rfl
@[simp] theorem State.setBlock_draws : (s.setBlock b).draws = s.draws := rfl

/-- The last of two updates of the block stands. -/
@[simp] theorem State.setBlock_setBlock (b' : Block) : (s.setBlock b).setBlock b' = s.setBlock b' := rfl

@[simp] theorem State.setBlock_self : s.setBlock s.block = s := rfl

@[simp] theorem resetBlock_cfg : (resetBlock s).cfg = s.cfg := rfl
@[simp] theorem resetBlock_block : (resetBlock s).block = Block.reset := rfl
@[simp] theorem resetBlock_pending : (resetBlock s).pending = s.pending := rfl
@[simp] theorem resetBlock_reads : (resetBlock s).reads = s.reads := rfl
@[simp] theorem resetBlock_draws : (resetBlock s).draws = s.draws := rfl

@[simp] theorem State.deliver_cfg : (s.deliver v).cfg = s.cfg := rfl
@[simp] theorem State.deliver_block : (s.deliver v).block = s.block := rfl
@[simp] theorem State.deliver_pending : (s.deliver v).pending = s.pending := rfl
@[simp] theorem State.deliver_reads : (s.deliver v).reads = v :: s.reads := rfl
@[simp] theorem State.deliver_draws : (s.deliver v).draws = s.draws := rfl

@[simp] theorem State.pushCmd_cfg : (s.pushCmd w).cfg = s.cfg := rfl
@[simp] theorem State.pushCmd_block : (s.pushCmd w).block = s.block := rfl
@[simp] theorem State.pushCmd_pending :
    (s.pushCmd w).pending = .access (.write 0x000#11 w) :: s.pending := rfl
@[simp] theorem State.pushCmd_reads : (s.pushCmd w).reads = s.reads := rfl
@[simp] theorem State.pushCmd_draws : (s.pushCmd w).draws = s.draws := rfl

variable (lost : Option Access)

/-- A lost access leaves the block alone (R200). -/
@[simp] theorem loseAccess_block : (loseAccess lost s).block = s.block := by
  obtain _ | _ | _ := lost <;> rfl

@[simp] theorem loseAccess_cfg : (loseAccess lost s).cfg = s.cfg := by
  obtain _ | _ | _ := lost <;> rfl

@[simp] theorem loseAccess_pending : (loseAccess lost s).pending = s.pending := by
  obtain _ | _ | _ := lost <;> rfl

end Sys2Proof.Machine
end

