-- ==== Sys2Proof/Laws/Ops.lean ====
section
/-! SUPPORT. What each shared operation can do, for the provers to cite instead of unfolding it. -/

namespace Sys2Proof.Machine

variable {b : Block} {s t : State} {code : OpErr} {w : Word}

/-- A successful end answers exactly its writes with OPERR cleared (R184). -/
@[simp] theorem succeed_next : succeed b s = .next t ↔ t = s.setBlock { b with opErr := .ok } := by
  simp [succeed, eq_comm]

/-- An operation error answers the state before with three fields written (R183). -/
@[simp] theorem opError_next :
    opError code w s = .next t ↔
      t = s.setBlock { s.block with opErr := code, errSeen := true, errWord := w } := by
  simp [opError, eq_comm]

/-- A write to CMD executes the word (R53). -/
@[simp] theorem memWrite_cmd : memWrite 0x000#11 w s = execute w s := by simp [memWrite]

/-- A word that decodes runs as its operation. -/
theorem execute_ok {i : Instr} (h : decode w = .ok i) : execute w s = exec i s := by simp [execute, h]

/-- A word that does not decode takes ILLEGAL_OPCODE (R76). -/
theorem execute_error {r : Reject} (h : decode w = .error r) :
    execute w s = opError .illegalOpcode w s := by
  cases r
  simp [execute, h]

/-- Everything a host event can do to the state. -/
theorem hostEvent_cases {e : HostEvent} (h : hostEvent e s = .next t) :
    (∃ a, e = .access (.read a) ∧ t = s.deliver (memRead s a)) ∨
      (∃ a w, e = .access (.write a w) ∧ a ≠ 0x000#11 ∧ t = s) ∨
      (∃ w i, e = .access (.write 0x000#11 w) ∧ decode w = .ok i ∧ exec i s = .next t) ∨
      (∃ w r, e = .access (.write 0x000#11 w) ∧ decode w = .error r ∧ opError .illegalOpcode w s = .next t) ∨
      ∃ lost, e = .reset lost ∧ t = loseAccess lost (resetBlock s) := by
  rcases e with (a | ⟨a, w⟩) | lost
  · exact .inl ⟨a, rfl, by simpa [hostEvent] using h.symm⟩
  · by_cases ha : a = 0x000#11
    · subst ha
      simp only [hostEvent, memWrite_cmd] at h
      cases hd : decode w with
      | ok i => exact .inr (.inr (.inl ⟨w, i, rfl, hd, by rwa [execute_ok hd] at h⟩))
      | error r => exact .inr (.inr (.inr (.inl ⟨w, r, rfl, hd, by rwa [execute_error hd] at h⟩)))
    · exact .inr (.inl ⟨a, w, rfl, ha, by
        rw [hostEvent, memWrite, if_neg ha] at h
        simpa using h.symm⟩)
  · exact .inr (.inr (.inr (.inr ⟨lost, rfl, by simpa [hostEvent] using h.symm⟩)))

end Sys2Proof.Machine
end

