-- ==== Sys2Proof/Laws/Framer.lean ====
section
/-! SUPPORT. Small facts about the encode direction's functions: the command codes, the control values, the frame an
open request seals into, and stuffing by position. -/

namespace Sys2Proof.Machine

/-- The five command codes, as a range. -/
theorem isCommand_iff (b : Byte) : isCommand b = true ↔ 1 ≤ b.toNat ∧ b.toNat ≤ 5 := by
  revert b; decide

/-- The three control values. -/
theorem isControl_iff (b : Byte) : isControl b = true ↔ b = 0x01 ∨ b = 0x04 ∨ b = 0x10 := by
  simp [isControl, beginMarker, endMarker, escapeMarker, or_assoc]

/-- A sequence by its two ends. -/
theorem snoc_cases (U : List Byte) : U = [] ∨ (∃ a, U = [a]) ∨ ∃ a M z, U = a :: M ++ [z] := by
  rcases U with _ | ⟨a, L⟩
  · exact .inl rfl
  · rcases L.eq_nil_or_concat with rfl | ⟨M, z, rfl⟩
    · exact .inr (.inl ⟨a, rfl⟩)
    · exact .inr (.inr ⟨a, M, z, by simp⟩)

variable {b : Block} {b0 cmd : Byte} {P : List Byte}

theorem openCmd_eq (h : b.req = b0 :: cmd :: P) : openCmd b = cmd := by simp [openCmd, h, byteAt]

theorem openPayload_eq (h : b.req = b0 :: cmd :: P) : openPayload b = P := by simp [openPayload, slice, h]

theorem sealedFrame_eq (h : b.req = b0 :: cmd :: P) : sealedFrame b = frame cmd P := by
  simp [sealedFrame, openPayload_eq h, openCmd_eq h]

/-- A frame by its ends and what stands between them. -/
theorem frame_snoc (cmd : Byte) (P : List Byte) :
    frame cmd P =
      beginMarker :: (cmd :: P ++ [loByte (checksum (cmd :: P)), hiByte (checksum (cmd :: P))]) ++ [endMarker] := by
  simp [frame]

/-- The command of a frame stands at index 1. -/
theorem byteAt_frame_one (cmd : Byte) (P : List Byte) : byteAt (frame cmd P) 1 = cmd := by simp [frame, byteAt]

/-- What stuffing makes of the bytes after the first: all but the last are candidates for an escape. -/
theorem stuffTail_snoc (M : List Byte) (z : Byte) :
    stuffTail (M ++ [z]) = M.flatMap (fun b => if isControl b then [escapeMarker, b] else [b]) ++ [z] := by
  induction M with
  | nil => rfl
  | cons b M ih =>
    cases M with
    | nil => simp [stuffTail]
    | cons c M =>
      show stuffTail (b :: c :: (M ++ [z])) = _
      rw [stuffTail, List.flatMap_cons, List.append_assoc, ← ih]
      rfl

end Sys2Proof.Machine
end

