-- ==== Sys2Proof/Laws/PerInstr.lean ====
section
/-! SUPPORT. The facts that hold of each instruction as syntax, one lemma per constructor. -/

namespace Sys2Proof.Laws.EncodeFields

/-- The word of an instruction holds its OPC in bits [15:8] and its operand in bits [7:0] (R73). -/
def Statement (i : Instr) : Prop := opcField (encode i) = i.opc ∧ immField (encode i) = i.imm

/-- The two fields of a concatenation, the one fact behind every constructor's lemma. -/
theorem of_append (i : Instr) : Statement i :=
  ⟨opcField_append i.opc i.imm, immField_append i.opc i.imm⟩

theorem nop (imm : Byte) : Statement (.nop imm) := of_append _
theorem crcClr (imm : Byte) : Statement (.crcClr imm) := of_append _
theorem crcNib (imm : Byte) : Statement (.crcNib imm) := of_append _
theorem crcByte (imm : Byte) : Statement (.crcByte imm) := of_append _
theorem srst (imm : Byte) : Statement (.srst imm) := of_append _
theorem reqStart (cmd : Byte) : Statement (.reqStart cmd) := of_append _
theorem reqPut (imm : Byte) : Statement (.reqPut imm) := of_append _
theorem reqSeal (imm : Byte) : Statement (.reqSeal imm) := of_append _
theorem rxStart (imm : Byte) : Statement (.rxStart imm) := of_append _
theorem rxPut (imm : Byte) : Statement (.rxPut imm) := of_append _
theorem decode (imm : Byte) : Statement (.decode imm) := of_append _
theorem validate (minLen : Byte) : Statement (.validate minLen) := of_append _
theorem errClr (imm : Byte) : Statement (.errClr imm) := of_append _

end Sys2Proof.Laws.EncodeFields
end

