-- ==== Sys2Proof/Laws/Receiver.lean ====
section
/-! SUPPORT. Small facts about the receiver's functions, and the four results VALIDATE chooses between. -/

namespace Sys2Proof.Machine

/-- Two bytes as one word. -/
theorem ofLoHi_toNat (lo hi : Byte) : (ofLoHi lo hi).toNat = lo.toNat + 256 * hi.toNat := by
  rw [ofLoHi, BitVec.toNat_append, ← Nat.shiftLeft_add_eq_or_of_lt (by omega), Nat.shiftLeft_eq]
  omega

/-- The checksum region of R146, by dropping and taking. -/
theorem slice_region (D : List Byte) : slice D 1 (D.length - 4) = (D.drop 1).take (D.length - 4) := by
  rw [slice, List.drop_take]
  simp

/-- Only an empty sequence decodes to an empty one. -/
theorem unstuff_eq_nil (R : List Byte) : unstuff R = [] ↔ R = [] := by
  rcases R with _ | ⟨b, _ | ⟨c, R⟩⟩
  · simp [unstuff]
  · simp [unstuff]
  · rw [unstuff]
    split <;> simp

/-- Everything the result of VALIDATE can be, each with its condition (R144). -/
theorem verdict_cases (rx : List Byte) (m cmd : Byte) :
    (rx = [] ∧ verdict rx m cmd = .timeout) ∨
      (rx ≠ [] ∧ (unstuff rx).length < requiredLen m cmd ∧ verdict rx m cmd = .lengthMismatch) ∨
      (rx ≠ [] ∧ requiredLen m cmd ≤ (unstuff rx).length ∧
        freshChecksum (unstuff rx) = embeddedChecksum (unstuff rx) ∧ verdict rx m cmd = .responseValid) ∨
      rx ≠ [] ∧ requiredLen m cmd ≤ (unstuff rx).length ∧
        freshChecksum (unstuff rx) ≠ embeddedChecksum (unstuff rx) ∧ verdict rx m cmd = .checksumMismatch := by
  unfold verdict
  by_cases h1 : rx = []
  · simp [h1]
  · by_cases h2 : (unstuff rx).length < requiredLen m cmd
    · simp [h1, h2]
    · by_cases h3 : freshChecksum (unstuff rx) = embeddedChecksum (unstuff rx) <;> simp [h1, h2, h3] <;> omega

/-- In AwaitingResponse VALIDATE answers exactly `validated` with OPERR cleared. -/
theorem execValidate_next {s t : State} {m : Byte} (h : s.block.xstate = .awaitingResponse) :
    execValidate m s = .next t ↔ t = s.setBlock { validated m s.block with opErr := .ok } := by
  simp only [execValidate, if_pos h, succeed_next]

end Sys2Proof.Machine
end

