-- ==== Sys2Proof/Laws/Step.lean ====
section
/-! SUPPORT. A step in terms of the oldest host event, and runs in terms of steps. -/

namespace Sys2Proof.Machine

variable {s : State} {e : HostEvent} {rest : List HostEvent}

/-- With nothing pending a step changes nothing (log 3). -/
theorem step_idle (h : s.pending = []) : step s = .next s := by simp [step, h]

/-- Otherwise a step is the oldest event on the state without it. -/
theorem step_event (h : s.pending = e :: rest) : step s = hostEvent e { s with pending := rest } := by
  simp [step, h]

@[simp] theorem runSteps_zero : runSteps 0 s = .next s := rfl

/-- A run of one step more starts with a step that answers. -/
theorem runSteps_succ {n : Nat} {t : State} (h : step s = .next t) :
    runSteps (n + 1) s = runSteps n t := by
  rw [runSteps, h]

/-- The run of the claims is the run of the host's interface. -/
theorem core_run_eq_runSteps (n : Nat) (s : State) : Sys2Proof.core.run n s = runSteps n s := by
  induction n generalizing s with
  | zero => rfl
  | succ n ih =>
    have hs : Sys2Proof.core.step s = step s := rfl
    simp only [Host.Core.run, hs, runSteps]
    cases step s with
    | next t => exact ih t
    | fault r => rfl
    | refused r => rfl

end Sys2Proof.Machine
end

