-- ==== Sys2Proof/Tests/Slice0.lean ====
section
/-! SUPPORT. The model's own tests: every expected value is from the spec's encodings, its operation examples or its
test vectors (95_test_vectors.md), and each test's comment says which. Then the witnesses: for every statement with
hypotheses, a concrete state and operands that meet them. -/

namespace Sys2Proof.Machine.Tests

/-- A block of the default capacity in the given state. -/
def machine (b : Block) : State := { State.reset with block := b }

/-- A block of the least capacity, 8, in the given state (V-F5, V-F6, V-V12). -/
def machine8 (b : Block) : State := { machine b with cfg := { bufCap := 8 } }

/-- The state after, for one that answers. -/
def after : Result → Option State
  | .next t => some t
  | .fault _ => none
  | .refused _ => none

/-- The state elements after. -/
def blockAfter (r : Result) : Option Block := (after r).map State.block

/-- The STATUS word after. -/
def statusAfter (r : Result) : Option Word := (after r).map fun t => memRead t 0x001

/-- A ProgramFlash request being built. -/
def openProgram : Block := { Block.reset with req := [0x01, 0x03], reqOpen := true }

/-- The ReadVersion request of V-F1, sealed. -/
def sentVersion : Block :=
  { Block.reset with
    req := [0x01, 0x01, 0x21, 0x10, 0x04], tx := [0x01, 0x10, 0x01, 0x21, 0x10, 0x10, 0x04]
    crcAcc := 0x1021, lastCmd := 0x01, xstate := .frameSent }

/-- That request with its response being received. -/
def awaitVersion (rx : List Byte) : Block := { sentVersion with xstate := .awaitingResponse, rx := rx }

/-- The EraseFlash request of V-S3 with its response being received. -/
def awaitErase (rx : List Byte) : Block :=
  { Block.reset with
    req := [0x01, 0x02, 0x42, 0x20, 0x04], tx := [0x01, 0x02, 0x42, 0x20, 0x04]
    crcAcc := 0x2042, lastCmd := 0x02, xstate := .awaitingResponse, rx := rx, rxEof := rx.contains 0x04 }

/-- The response of V-S6. -/
def versionResponse : List Byte := [0x01, 0x10, 0x01, 0x03, 0x02, 0x21, 0x42, 0x04]

/-! ### Decoding: words written out from the bit patterns of R75 -/

theorem test_decode_NOP : decode 0b0000000000000000 = .ok (.nop 0x00) := by decide
theorem test_decode_CRC_CLR : decode 0b0000000100000000 = .ok (.crcClr 0x00) := by decide
theorem test_decode_CRC_NIB : decode 0b0000001000010101 = .ok (.crcNib 0x15) := by decide
theorem test_decode_CRC_BYTE : decode 0b0000001110000001 = .ok (.crcByte 0x81) := by decide
theorem test_decode_SRST : decode 0b0000111100000000 = .ok (.srst 0x00) := by decide
theorem test_decode_REQ_START : decode 0b0001000000000101 = .ok (.reqStart 0x05) := by decide
theorem test_decode_REQ_PUT : decode 0b0001000111011101 = .ok (.reqPut 0xDD) := by decide
theorem test_decode_REQ_SEAL : decode 0b0001001011111111 = .ok (.reqSeal 0xFF) := by decide
theorem test_decode_RX_START : decode 0b0010000000000000 = .ok (.rxStart 0x00) := by decide
theorem test_decode_RX_PUT : decode 0b0010000110000000 = .ok (.rxPut 0x80) := by decide
theorem test_decode_DECODE : decode 0b0010001000000001 = .ok (.decode 0x01) := by decide
theorem test_decode_VALIDATE : decode 0b0010001100000111 = .ok (.validate 0x07) := by decide
theorem test_decode_ERR_CLR : decode 0b0011000000000000 = .ok (.errClr 0x00) := by decide

/-- R76: the ends of the illegal ranges. -/
theorem test_decode_rejects :
    [0x0400, 0x0E00, 0x1300, 0x1F00, 0x2400, 0x2F00, 0x31FF, 0xFF00].map decode =
      [0x04, 0x0E, 0x13, 0x1F, 0x24, 0x2F, 0x31, 0xFF].map fun o => .error (.undefinedOpcode o) := by decide

/-- The words of program P2 (95_test_vectors.md). -/
theorem test_encode_P2 :
    [Instr.reqStart 0x01, .reqSeal 0x00, .rxStart 0x00, .rxPut 0x10, .validate 0x07].map encode =
      [0x1001, 0x1200, 0x2000, 0x2110, 0x2307] := by decide

theorem test_decodeTableWord :
    decodeTableWord 16 0x2307 = some (.validate 0x07) ∧ decodeTableWord 16 0x0400 = none ∧
      decodeTableWord 32 0x2307 = none := by decide

/-! ### Well-formedness: each check refuses an ill-formed term -/

theorem test_wf_refuses_command_00 : (Instr.reqStart 0x00).wf = false := by decide
theorem test_wf_refuses_command_06 : (Instr.reqStart 0x06).wf = false := by decide
theorem test_wf_accepts_commands : [0x01, 0x02, 0x03, 0x04, 0x05].all (fun c => (Instr.reqStart c).wf) = true := by
  decide
theorem test_reservedClear_refuses :
    [Instr.nop 0x01, .crcClr 0x80, .srst 0x01, .reqSeal 0x02, .rxStart 0x04, .decode 0x10, .errClr 0xFF,
      .crcNib 0x15].map Instr.reservedClear = List.replicate 8 false := by decide
theorem test_asm_wf_refuses :
    [AsmLine.op .reqPut 256, .word 65536, .frame 256 [], .frame 3 [256], .recv [], .recv [256], .crcOf [],
      .crcOf [256], .crcByte2 256, .rd .reserved].map AsmLine.wf = List.replicate 10 false := by decide
theorem test_config_wf_refuses : ¬ Config.WF { bufCap := 7 } ∧ ¬ Config.WF { bufCap := 257 } := by decide

/-! ### One step of each operation -/

/-- R170's example. -/
theorem test_NOP_after_error :
    blockAfter (exec (.nop 0x00) (machine { Block.reset with opErr := .sequence, errSeen := true })) =
      some { Block.reset with errSeen := true } := by decide

/-- V-C13. -/
theorem test_CRC_CLR :
    blockAfter (exec (.crcClr 0x00) (machine { Block.reset with crcAcc := 0x31C3 })) = some Block.reset := by decide

/-- V-C1 and V-C2: the high operand bits are ignored. -/
theorem test_CRC_NIB :
    [0x05, 0x15].map (fun n => blockAfter (exec (.crcNib n) (machine { Block.reset with crcAcc := 0x1234 }))) =
      List.replicate 2 (some { Block.reset with crcAcc := 0x63C4 }) := by decide

/-- V-C3 and V-C4: the bits shifted out live on in the index. -/
theorem test_CRC_NIB_top :
    [0x0F, 0x00].map (fun n => blockAfter (exec (.crcNib n) (machine { Block.reset with crcAcc := 0xFFFF }))) =
      [some { Block.reset with crcAcc := 0xFFF0 }, some { Block.reset with crcAcc := 0x0E1F }] := by decide

/-- V-C8: high nibble first. -/
theorem test_CRC_BYTE :
    blockAfter (exec (.crcByte 0x00) (machine { Block.reset with crcAcc := 0x2042 })) =
      some { Block.reset with crcAcc := 0x6662 } := by decide

/-- V-C10. -/
theorem test_CRC_BYTE_FF :
    blockAfter (exec (.crcByte 0xFF) (machine Block.reset)) = some { Block.reset with crcAcc := 0x1EF0 } := by decide

/-- R171: mid-exchange, everything goes to its reset value. -/
theorem test_SRST : blockAfter (exec (.srst 0x00) (machine (awaitVersion versionResponse))) = some Block.reset := by
  decide

/-- R123's example. -/
theorem test_REQ_START :
    blockAfter (exec (.reqStart 0x02) (machine Block.reset)) =
        some { Block.reset with req := [0x01, 0x02], reqOpen := true } ∧
      statusAfter (exec (.reqStart 0x02) (machine Block.reset)) = some 0x0040 := by decide

/-- V-F7. -/
theorem test_REQ_START_bad_command :
    statusAfter (exec (.reqStart 0x06) (machine Block.reset)) = some 0x0A00 ∧
      (blockAfter (exec (.reqStart 0x06) (machine Block.reset))).map Block.errWord = some 0x1006 := by decide

/-- R124's example. -/
theorem test_REQ_PUT :
    blockAfter (exec (.reqPut 0x10) (machine openProgram)) =
      some { openProgram with req := [0x01, 0x03, 0x10] } := by decide

/-- V-F5: the fourth byte does not fit a capacity of 8. -/
theorem test_REQ_PUT_overflow :
    let b := { openProgram with req := [0x01, 0x03, 0xAA, 0xBB, 0xCC] }
    blockAfter (exec (.reqPut 0xDD) (machine8 b)) =
      some { b with opErr := .overflow, errSeen := true, errWord := 0x11DD } := by decide

/-- R125's example, V-F1. -/
theorem test_REQ_SEAL :
    blockAfter (exec (.reqSeal 0x00) (machine { Block.reset with req := [0x01, 0x01], reqOpen := true })) =
      some sentVersion := by decide

/-- V-F6: the stuffed frame does not fit a capacity of 8; the request stays open. -/
theorem test_REQ_SEAL_overflow :
    let b := { openProgram with req := [0x01, 0x03, 0x10, 0xBB, 0xCC] }
    blockAfter (exec (.reqSeal 0x00) (machine8 b)) =
        some { b with opErr := .overflow, errSeen := true, errWord := 0x1200 } ∧
      statusAfter (exec (.reqSeal 0x00) (machine8 b)) = some 0x0C40 := by decide

/-- R141's example; DEC keeps the previous decode. -/
theorem test_RX_START :
    statusAfter (exec (.rxStart 0x00) (machine { sentVersion with rx := [0x55], rxEof := true, rxOvf := true })) =
        some 0x0002 ∧
      (blockAfter (exec (.rxStart 0x00) (machine { sentVersion with dec := [0xAA] }))).map Block.dec =
        some [0xAA] := by decide

/-- R142's example. -/
theorem test_RX_PUT :
    blockAfter (exec (.rxPut 0x04) (machine (awaitErase [0x01, 0x03]))) =
      some { awaitErase [0x01, 0x03] with rx := [0x01, 0x03, 0x04], rxEof := true } := by decide

/-- V-V12: the ninth byte is dropped. -/
theorem test_RX_PUT_full :
    blockAfter (exec (.rxPut 0x09) (machine8 (awaitVersion versionResponse))) =
      some { awaitVersion versionResponse with rxOvf := true } := by decide

/-- R143's example. -/
theorem test_DECODE :
    (blockAfter (exec (.decode 0x00) (machine { Block.reset with rx := [0x01, 0x10, 0x01, 0x21, 0x10, 0x10, 0x04] }))).map
      Block.dec = some [0x01, 0x01, 0x21, 0x10, 0x04] := by decide

/-- V-V1: a valid ReadVersion response. -/
theorem test_VALIDATE_version :
    blockAfter (exec (.validate 7) (machine { awaitVersion versionResponse with rxEof := true })) =
        some
          { awaitVersion versionResponse with
            rxEof := true, dec := [0x01, 0x01, 0x03, 0x02, 0x21, 0x42, 0x04], xstate := .responseValid
            crcAcc := 0x4221, major := 0x03, minor := 0x02, verValid := true } ∧
      statusAfter (exec (.validate 7) (machine { awaitVersion versionResponse with rxEof := true })) =
        some 0x0093 := by decide

/-- V-V6, V-V7 and V-V8: the echo comparison beside each of three results. -/
theorem test_VALIDATE_echo :
    [[0x01, 0x02, 0x42, 0x21, 0x04], [0x01, 0x02, 0x42], [0x01, 0x03, 0x63, 0x30, 0x04]].map
        (fun rx => statusAfter (exec (.validate 5) (machine (awaitErase rx)))) =
      [some 0x001D, some 0x000E, some 0x001B] := by decide

/-- R172's example. -/
theorem test_ERR_CLR :
    blockAfter (exec (.errClr 0x00) (machine { Block.reset with errSeen := true, errWord := 0x1105 })) =
      some Block.reset := by decide

/-! ### The functions, the register map, steps and assembly -/

/-- V-F2: three escapes. -/
theorem test_stuff :
    stuff [0x01, 0x03, 0x01, 0x04, 0x10, 0x55, 0x85, 0x4D, 0x04] =
      [0x01, 0x03, 0x10, 0x01, 0x10, 0x04, 0x10, 0x10, 0x55, 0x85, 0x4D, 0x04] := by decide

/-- V-F3: the frame of a payload of control values. -/
theorem test_frame : frame 0x03 [0x10, 0x04] = [0x01, 0x03, 0x10, 0x04, 0xA7, 0x1A, 0x04] := by decide

/-- V-D2, V-D3, V-D5, V-D6, V-D7, V-D9. -/
theorem test_unstuff :
    [[0x10], [0x10, 0x05], [0x10, 0x10, 0x10], [0x10, 0x10, 0x10, 0x04], [0x10, 0x01, 0x10, 0x04],
      [0x01, 0x01, 0x21, 0x10, 0x04]].map unstuff =
      [[0x10], [0x10, 0x05], [0x10, 0x10], [0x10, 0x04], [0x01, 0x04], [0x01, 0x01, 0x21, 0x04]] := by decide

/-- V-C25 and V-C24: two bytes and four. -/
theorem test_checksum : checksum [0x10, 0x04] = 0x43F7 := by decide
theorem test_checksum_ones : checksum [0xFF, 0xFF, 0xFF, 0xFF] = 0x99CF := by decide

/-- R33, R34, R35, R37, R38, R39 on the state of V-V1's request. -/
theorem test_register_map :
    let s := machine { sentVersion with major := 0x03, minor := 0x02 }
    [0x000, 0x003, 0x004, 0x005, 0x008, 0x00A, 0x00B, 0x101, 0x105, 0x201, 0x206, 0x207, 0x500].map (memRead s) =
      [0x0000, 0x0302, 0x0005, 0x0007, 0x0001, 0x0080, 0x0000, 0x0001, 0x0000, 0x0010, 0x0004, 0x0000, 0x0000] := by
  decide

/-- R59: the named registers stand at the addresses of the map. -/
theorem test_busReg_addr :
    [BusReg.cmd, .status, .crc, .version, .len .req, .len .dec, .lastCmd, .errWord, .cap, .window .req 0x00,
      .window .dec 0xFF].map (fun r => r.addr.map busReg) =
    [BusReg.cmd, .status, .crc, .version, .len .req, .len .dec, .lastCmd, .errWord, .cap, .window .req 0x00,
      .window .dec 0xFF].map some := by decide

/-- V-E1 as the first step after reset. -/
theorem test_step_illegal_opcode :
    blockAfter (step (State.reset.withFetchWord 16 0x0400)) =
      some { Block.reset with opErr := .illegalOpcode, errSeen := true, errWord := 0x0400 } := by decide

/-- V-F7, `REQ_PUT 05`, as the first step after reset. -/
theorem test_step_sequence_error :
    blockAfter (step (State.reset.withFetchWord 16 0x1105)) =
      some { Block.reset with opErr := .sequence, errSeen := true, errWord := 0x1105 } := by decide

/-- R52: a step that serves a read records the value and touches no state element. -/
theorem test_step_read :
    after (step { machine sentVersion with pending := [.access (.read 0x002)] }) =
      some { machine sentVersion with reads := [0x1021] } := by decide

/-- R200: the reset input with a lost CMD write. -/
theorem test_step_reset_loses_write :
    after (step { machine sentVersion with pending := [.reset (some (.write 0x000 0x1002))] }) =
      some State.reset := by decide

/-- Program P3's request by R81's FRAME, its words from the program's table. -/
theorem test_assemble_FRAME :
    assemble [.frame 3 [0x00, 0x01, 0x04, 0x10, 0xFF], .sendTx] =
      some [0x1003, 0x1100, 0x1101, 0x1104, 0x1110, 0x11FF, 0x1200] := by decide

/-- Lines of programs P2 and P5 and pseudo-instructions of R81, as text. -/
theorem test_parseLine :
    ["REQ_START 0x01", "REQ_SEAL ; seal it", "VALIDATE 7", ".word 0x0400", "FRAME 2", "RECV 0x01, 2", "RD TX[3]",
      "SEND TX", "; nothing"].map (fun l => parseLine l.toList) =
    [some [.op .reqStart 1], some [.op .reqSeal 0], some [.op .validate 7], some [.word 0x400],
      some [.frame 2 []], some [.recv [1, 2]], some [.rd (.window .tx 3)], some [.sendTx], some []] := by decide

/-- What is not of the notation: an operand over 255, an unknown mnemonic, two operands, RECV with none. -/
theorem test_parseLine_refuses :
    ["REQ_PUT 256", "REQ_GET 1", "REQ_PUT 1, 2", "RECV"].map (fun l => parseLine l.toList) =
      List.replicate 4 none := by decide

/-! ### Witnesses: the statements' hypotheses can be met -/

theorem witness_DecodeInvertsEncode : decode 0x2307 = .ok (.validate 0x07) ∧ (0x2307 : Word) = encode (.validate 0x07) := by
  decide

/-- The ends of each range of R76, and two words outside them. -/
theorem witness_illegalOpc :
    [0x0400, 0x0EFF, 0x1300, 0x1FFF, 0x2400, 0x2F00, 0x3100, 0xFF00, 0x0300, 0x3000].map
        (fun w : Word => decide (illegalOpc (opcField w))) =
      [true, true, true, true, true, true, true, true, false, false] := by decide

theorem witness_StepExecutesDecodedWord :
    ({ State.reset with pending := [.access (.write 0x000 0x0000)] } : State).pending =
        .access (.write 0x000 0x0000) :: [] ∧
      decode 0x0000 = .ok (.nop 0x00) ∧ State.reset.pending = [] := by decide

/-- StepExecutesDecodedWord, for a pending reset, an undefined word and a write elsewhere. -/
theorem witness_StepExecutesDecodedWord_events :
    [HostEvent.reset (some (.read 0x001)), .access (.write 0x000 0x0400), .access (.write 0x001 0x1002)].map
        (fun e => ({ State.reset with pending := [e] } : State).pending) =
      [[.reset (some (.read 0x001))], [.access (.write 0x000 0x0400)], [.access (.write 0x001 0x1002)]] := by decide

theorem witness_OnlyCmdWritesExecute : (0x001 : Addr) ≠ 0x000#11 := by decide

theorem witness_RepeatedReadReturnsSameValue :
    ({ State.reset with pending := [.access (.read 0x00A), .access (.read 0x00A)] } : State).pending =
      .access (.read 0x00A) :: .access (.read 0x00A) :: [] := by decide

theorem witness_BlockChangesOnlyByCmdWriteOrReset :
    ∃ t, step (State.reset.withFetchWord 16 0x1002) = .next t ∧
      t.block ≠ (State.reset.withFetchWord 16 0x1002).block :=
  ⟨_, rfl, by decide⟩

theorem witness_RunsServeEventsInOrder :
    (∃ t, runSteps 1 (State.reset.withFetchWord 16 0x1002) = .next t) ∧
      ({ State.reset with pending := [.reset none] } : State).pending = .reset none :: [] ∧
      ∃ t, hostEvent (.reset none) State.reset = .next t :=
  ⟨⟨_, rfl⟩, by decide, ⟨_, rfl⟩⟩

/-- LengthAndCapRegistersRead: a state that meets the invariant, at the least and the greatest capacity. -/
theorem witness_Inv : (machine8 sentVersion).Inv := by decide
theorem witness_Inv_greatest : ({ State.reset with cfg := { bufCap := 256 } } : State).Inv := by decide

theorem witness_WindowsReadBuffers :
    ((1 : BitVec 3), sentVersion.req) ∈
        [((1 : BitVec 3), sentVersion.req), (2, sentVersion.tx), (3, sentVersion.rx), (4, sentVersion.dec)] ∧
      (0x04 : Byte).toNat < sentVersion.req.length ∧ sentVersion.req.length ≤ (0x05 : Byte).toNat ∧
      ((4 : BitVec 3), sentVersion.dec) ∈
        [((1 : BitVec 3), sentVersion.req), (2, sentVersion.tx), (3, sentVersion.rx), (4, sentVersion.dec)] := by
  decide

theorem witness_ReservedAddressesReadZero :
    (0x00B ≤ (0x00B : Addr).toNat ∧ (0x0FF : Addr).toNat ≤ 0x0FF) ∧ 0x500 ≤ (0x500 : Addr).toNat ∧
      0x500 ≤ (0x7FF : Addr).toNat := by decide

theorem witness_FramingIgnoresAccumulator :
    (∃ t, exec (.reqSeal 0x00) (machine openProgram) = .next t) ∧
      ∃ t, exec (.validate 0x05) (machine (awaitErase [])) = .next t :=
  ⟨⟨_, rfl⟩, ⟨_, rfl⟩⟩

theorem witness_ReqStartResult :
    (1 ≤ (0x01 : Byte).toNat ∧ (0x05 : Byte).toNat ≤ 5) ∧ (0x00 : Byte).toNat = 0 ∧ 6 ≤ (0x06 : Byte).toNat ∧
      6 ≤ (0xFF : Byte).toNat := by decide

/-- ReqPutResult: the last byte that fits a capacity of 8, the first that does not, and no open request. -/
theorem witness_ReqPutResult :
    let last := machine8 { openProgram with req := [0x01, 0x03, 0xAA, 0xBB] }
    let tooLong := machine8 { openProgram with req := [0x01, 0x03, 0xAA, 0xBB, 0xCC] }
    (last.block.reqOpen = true ∧ last.block.req.length + 4 ≤ last.cfg.bufCap) ∧
      (tooLong.block.reqOpen = true ∧ tooLong.cfg.bufCap < tooLong.block.req.length + 4) ∧
      State.reset.block.reqOpen = false := by decide

/-- ReqSealResult and ShortRequestsAlwaysSeal: a stuffed frame of exactly 8 bytes (V-F5), one of 9 (V-F6), an empty
payload, and no open request. -/
theorem witness_ReqSealResult :
    let fits := machine8 { openProgram with req := [0x01, 0x03, 0xAA, 0xBB, 0xCC] }
    let tooLong := machine8 { openProgram with req := [0x01, 0x03, 0x10, 0xBB, 0xCC] }
    (fits.block.reqOpen = true ∧ fits.block.req = 0x01 :: 0x03 :: [0xAA, 0xBB, 0xCC] ∧
        (stuff (frame 0x03 [0xAA, 0xBB, 0xCC])).length ≤ fits.cfg.bufCap) ∧
      (tooLong.block.reqOpen = true ∧ tooLong.block.req = 0x01 :: 0x03 :: [0x10, 0xBB, 0xCC] ∧
        tooLong.cfg.bufCap < (stuff (frame 0x03 [0x10, 0xBB, 0xCC])).length) ∧
      ((machine8 openProgram).cfg.WF ∧ openProgram.reqOpen = true ∧ openProgram.req = 0x01 :: 0x03 :: []) ∧
      State.reset.block.reqOpen = false := by decide

/-- ShortRequestsAlwaysSeal: a payload of one byte in a capacity of exactly 2 * (3 + 3) - 2 = 10. -/
theorem witness_ShortRequestsAlwaysSeal :
    let s : State := { machine { openProgram with req := [0x01, 0x03, 0x10] } with cfg := { bufCap := 10 } }
    s.cfg.WF ∧ s.block.reqOpen = true ∧ s.block.req = 0x01 :: 0x03 :: [0x10] ∧
      2 * (s.block.req.length + 3) - 2 ≤ s.cfg.bufCap := by decide

theorem witness_StuffedLength : 2 ≤ ([0x01, 0x04] : List Byte).length := by decide

/-- SealedFrameDelimiters and CommandByteEscaped: a seal that succeeds, with an escaped 0x01 inside TX, and one of a
command that is not escaped. -/
theorem witness_SealedFrameDelimiters :
    let s := machine { Block.reset with req := [0x01, 0x01], reqOpen := true }
    (∃ t, exec (.reqSeal 0x00) s = .next t ∧ t.block.opErr = .ok ∧ s.block.req = 0x01 :: 0x01 :: [] ∧
      0 < 2 ∧ 2 + 1 < t.block.tx.length ∧ byteAt t.block.tx 2 = 0x01) ∧
    ∃ t, exec (.reqSeal 0x00) (machine openProgram) = .next t ∧ t.block.opErr = .ok ∧
      openProgram.req = 0x01 :: 0x03 :: [] :=
  ⟨⟨_, rfl, by decide⟩, ⟨_, rfl, by decide⟩⟩

theorem witness_UnstuffInvertsStuff :
    ([0x10] : List Byte).length ≤ 1 ∧ byteAt [0x01, 0x10, 0x04] 0 ≠ 0x10 := by decide

theorem witness_RxStartResult : sentVersion.xstate = .frameSent ∧ Block.reset.xstate ≠ .frameSent := by decide

/-- RxPutResult: one byte short of full, full, and out of order. -/
theorem witness_RxPutResult :
    let room := machine8 (awaitVersion (List.replicate 7 0x55))
    let full := machine8 (awaitVersion versionResponse)
    (room.block.xstate = .awaitingResponse ∧ room.block.rx.length < room.cfg.bufCap) ∧
      (full.block.xstate = .awaitingResponse ∧ full.cfg.bufCap ≤ full.block.rx.length) ∧
      sentVersion.xstate ≠ .awaitingResponse := by decide

theorem witness_ReceivedSequence :
    let s : State := { machine8 (awaitVersion []) with pending := [.access (.write 0x000 0x2101)] }
    s.block.xstate = .awaitingResponse ∧ s.block.rx.length ≤ s.cfg.bufCap ∧ ([0x01] : List Byte) ≠ [] ∧
      s.pending = ([0x01] : List Byte).map (fun b => .access (.write 0x000#11 (0x21#8 ++ b))) ++ [] := by decide

/-- ValidateVerdict: one state for each of the four results, the third at its boundary length 7 and, for EraseFlash,
5. -/
theorem witness_ValidateVerdict :
    (awaitVersion []).xstate = .awaitingResponse ∧
      (unstuff [0x01, 0x01, 0x03, 0x02, 0x21, 0x42]).length < max 0 7 ∧
      max 7 7 ≤ (unstuff versionResponse).length ∧
      max 0 5 ≤ (unstuff [0x01, 0x02, 0x42, 0x20, 0x04]).length ∧
      checksum [0x02] = 0x2042 ∧ checksum [0x02] ≠ 0x2142 := by decide

/-- ValidateEcho and ValidateVersion: a VALIDATE after EraseFlash, and two after ReadVersion, one ResponseValid. -/
theorem witness_ValidateEcho :
    (∃ t, exec (.validate 5) (machine (awaitErase [0x01])) = .next t ∧
      (awaitErase [0x01]).xstate = .awaitingResponse ∧ (awaitErase [0x01]).lastCmd = 0x02) ∧
    (∃ t, exec (.validate 7) (machine (awaitVersion versionResponse)) = .next t ∧
      (awaitVersion versionResponse).lastCmd = 0x01 ∧ t.block.xstate = .responseValid) ∧
    ∃ t, exec (.validate 7) (machine (awaitVersion [0x01])) = .next t ∧ t.block.xstate ≠ .responseValid :=
  ⟨⟨_, rfl, by decide⟩, ⟨_, rfl, by decide⟩, ⟨_, rfl, by decide⟩⟩

/-- ValidateRunsOncePerExchange: VALIDATE, then a NOP, from a state that meets the invariant; and a state outside
AwaitingResponse. -/
theorem witness_ValidateRunsOncePerExchange :
    let s := (machine (awaitErase [0x01])).withFetchWord 16 0x0000
    sentVersion.xstate ≠ .awaitingResponse ∧ s.Inv ∧
      ∃ t, exec (.validate 5) s = .next t ∧ t.block.opErr = .ok ∧
        (∀ e ∈ t.pending.take 1, writesOpc 0x20 e = false ∧ writesOpc 0x10 e = false) ∧
        ∃ u, runSteps 1 t = .next u :=
  ⟨by decide, by decide, _, rfl, by decide, by decide, _, rfl⟩

/-- ValidateIgnoresDelimiters: two valid responses that differ in the first and the last byte only. -/
theorem witness_ValidateIgnoresDelimiters :
    let s := machine (awaitErase [0x01, 0x02, 0x42, 0x20, 0x04])
    let s' := machine (awaitErase [0x77, 0x02, 0x42, 0x20, 0x99])
    s.block.xstate = .awaitingResponse ∧ s'.block.xstate = .awaitingResponse ∧
      s.block.lastCmd = s'.block.lastCmd ∧
      (unstuff s.block.rx).length = (unstuff s'.block.rx).length ∧
      (∀ k < 4, 0 < k → byteAt (unstuff s.block.rx) k = byteAt (unstuff s'.block.rx) k) ∧
      (blockAfter (exec (.validate 5) s)).map Block.xstate = some .responseValid ∧
      (blockAfter (exec (.validate 5) s')).map Block.xstate = some .responseValid := by decide

theorem witness_DecNoLongerThanRx :
    (∃ t, exec (.decode 0x00) (machine (awaitErase [0x01])) = .next t) ∧
      ∃ t, exec (.validate 0x05) (machine (awaitErase [0x01])) = .next t ∧ t.block.opErr = .ok :=
  ⟨⟨_, rfl⟩, ⟨_, rfl, by decide⟩⟩

/-- ErrorsArePrecise: an operation with an error, one without, and one of the two that clear the record; for the
undefined OPC see `witness_illegalOpc`. -/
theorem witness_ErrorsArePrecise :
    errorOf (.reqPut 0x05) State.reset = .sequence ∧ errorOf (.nop 0x00) State.reset = .ok ∧
      (∃ imm, Instr.errClr 0x00 = .srst imm ∨ Instr.errClr 0x00 = .errClr imm) ∧
      errorOf (.reqPut 0x05) State.reset ≠ .ok :=
  ⟨by decide, by decide, ⟨0x00, .inr rfl⟩, by decide⟩

theorem witness_BadCommandExactlyForIllFormedOperands :
    (∃ t, exec (.reqStart 0x06) State.reset = .next t ∧ t.block.opErr = .badCommand) ∧
      (Instr.reqStart 0x06).wf = false :=
  ⟨⟨_, rfl, by decide⟩, by decide⟩

theorem witness_ErrSeenIsSticky :
    let s : State :=
      { machine { Block.reset with errSeen := true } with pending := [.access (.write 0x000 0x0000), .reset none] }
    s.block.errSeen = true ∧ (∀ e ∈ s.pending.take 1, clearsErrors e = false) ∧ ∃ t, runSteps 1 s = .next t :=
  ⟨by decide, by decide, ⟨_, rfl⟩⟩

theorem witness_IgnoredOperandBitsMakeNoDifference :
    (0x15 : Byte).extractLsb' 0 4 = (0x05 : Byte).extractLsb' 0 4 ∧
      (∃ t, exec (.reqSeal 0x00) (machine openProgram) = .next t ∧ t.block.opErr = .ok) ∧
      ∃ t, exec (.rxStart 0x00) (machine sentVersion) = .next t ∧ t.block.opErr = .ok :=
  ⟨by decide, ⟨_, rfl, by decide⟩, ⟨_, rfl, by decide⟩⟩

theorem witness_WritersOfEachElement :
    ∃ t, exec (.reqSeal 0x00) (machine openProgram) = .next t ∧ t.block.tx ≠ openProgram.tx ∧
      t.block.crcAcc ≠ openProgram.crcAcc ∧ t.block.req ≠ openProgram.req :=
  ⟨_, rfl, by decide⟩

/-- WritersOfEachElement: the clauses of RX, RX_EOF and the error record. -/
theorem witness_WritersOfEachElement_receive :
    (∃ t, exec (.rxPut 0x04) (machine (awaitVersion [])) = .next t ∧ t.block.rx ≠ (awaitVersion []).rx ∧
      t.block.rxEof ≠ (awaitVersion []).rxEof) ∧
    ∃ t, exec (.rxPut 0x04) State.reset = .next t ∧ t.block.errSeen ≠ State.reset.block.errSeen ∧
      t.block.errWord ≠ State.reset.block.errWord :=
  ⟨⟨_, rfl, by decide⟩, ⟨_, rfl, by decide⟩⟩

/-- WritersOfEachElement: the clauses of XSTATE, DEC, MAJOR, VER_VALID, ECHO_MM and REQ_OPEN. -/
theorem witness_WritersOfEachElement_validate :
    (∃ t, exec (.validate 7) (machine (awaitVersion versionResponse)) = .next t ∧
      t.block.xstate ≠ (awaitVersion versionResponse).xstate ∧ t.block.dec ≠ (awaitVersion versionResponse).dec ∧
      t.block.major ≠ (awaitVersion versionResponse).major ∧
      t.block.verValid ≠ (awaitVersion versionResponse).verValid) ∧
    (∃ t, exec (.validate 5) (machine (awaitErase [0x01])) = .next t ∧
      t.block.echoMm ≠ (awaitErase [0x01]).echoMm) ∧
    ∃ t, exec (.reqStart 0x01) State.reset = .next t ∧ t.block.reqOpen ≠ State.reset.block.reqOpen :=
  ⟨⟨_, rfl, by decide⟩, ⟨_, rfl, by decide⟩, ⟨_, rfl, by decide⟩⟩

/-- ExchangeStateTransitions, StepKeepsExchangeInvariant and StepKeepsErrorRecordAndLastCmd: a step that changes
XSTATE from a state that meets every invariant. -/
theorem witness_ExchangeStateTransitions :
    let s := (machine sentVersion).withFetchWord 16 0x2000
    (∃ t, step s = .next t ∧ t.block.xstate ≠ s.block.xstate) ∧ s.Inv ∧ s.block.ErrorRecord ∧
      s.block.LastCmdKnown :=
  ⟨⟨_, rfl, by decide⟩, by decide, by decide, by decide⟩

theorem witness_ConfigWF :
    Config.WF { bufCap := 8 } ∧ Config.WF { bufCap := 256 } ∧ Config.WF Config.standard := by decide

/-- EchoedExchangeIsValid: the EraseFlash exchange of program P1, and for ReadVersion frames with the most payload
bytes that give LengthMismatch, one, and the fewest that do not, two. -/
theorem witness_EchoedExchangeIsValid :
    let ops : List Instr :=
      .reqStart 0x02 :: ([] : List Byte).map .reqPut ++ [.reqSeal 0x00, .rxStart 0x00] ++
        (stuff (frame 0x02 [])).map .rxPut ++ [.validate 0x05]
    let s : State := { State.reset with pending := ops.map fun i => .access (.write 0x000#11 (encode i)) }
    s.cfg.WF ∧ 1 ≤ (0x02 : Byte).toNat ∧ (0x02 : Byte).toNat ≤ 5 ∧
      (stuff (frame 0x02 [])).length ≤ s.cfg.bufCap ∧ (stuff (frame 0x01 [0x03])).length ≤ s.cfg.bufCap ∧
      (stuff (frame 0x01 [0x03, 0x02])).length ≤ s.cfg.bufCap ∧
      s.pending = ops.map (fun i => .access (.write 0x000#11 (encode i))) ++ [] := by decide

end Sys2Proof.Machine.Tests
end

section
/-! PROOFS. The statements of 00_scope.md: what can change a state element (R9, R58), and which requests always seal
(R7, R125, R127). -/

namespace Sys2Proof.Machine

/-! ## What can change a state element -/

/-- Only two kinds of host event can touch the block (R58, R200). -/
theorem hostEvent_changes_block {e : HostEvent} {s t : State} (h : hostEvent e s = .next t)
    (hne : t.block ≠ s.block) :
    (∃ w, e = .access (.write 0x000#11 w)) ∨ ∃ lost, e = .reset lost := by
  obtain ⟨a, -, rfl⟩ | ⟨a, w, -, -, rfl⟩ | ⟨w, i, rfl, -, -⟩ | ⟨w, r, rfl, -, -⟩ | ⟨lost, rfl, -⟩ :=
    hostEvent_cases h
  · exact absurd (State.deliver_block s _) hne
  · exact absurd rfl hne
  · exact .inl ⟨w, rfl⟩
  · exact .inl ⟨w, rfl⟩
  · exact .inr ⟨lost, rfl⟩

/-- Settles O8, by cases on the queue: an idle step changes nothing, and any other is its first event. -/
theorem blockChangesOnlyByCmdWriteOrReset : Obligations.BlockChangesOnlyByCmdWriteOrReset := by
  intro s t h hne
  cases hp : s.pending with
  | nil =>
    rw [step_idle hp, Host.Outcome.next.injEq] at h
    exact absurd (congrArg State.block h.symm) hne
  | cons e rest =>
    rw [step_event hp] at h
    obtain ⟨w, rfl⟩ | ⟨lost, rfl⟩ := hostEvent_changes_block h hne
    · exact ⟨rest, .inl ⟨w, rfl⟩⟩
    · exact ⟨rest, .inr ⟨lost, rfl⟩⟩

/-! ## The length of a stuffed frame -/

/-- Stuffing by position (R121): the two ends as they are, an escape-marker before each control value between them. -/
theorem stuff_snoc (a : Byte) (M : List Byte) (z : Byte) :
    stuff (a :: M ++ [z]) = a :: M.flatMap (fun b => if isControl b then [escapeMarker, b] else [b]) ++ [z] := by
  rw [List.cons_append, stuff_cons, stuffTail_snoc, List.cons_append]

/-- Escaping adds one byte for each control value. -/
theorem length_flatMap_escape (M : List Byte) :
    (M.flatMap fun b => if isControl b then [escapeMarker, b] else [b]).length = M.length + M.countP isControl := by
  induction M with
  | nil => rfl
  | cons b M ih =>
    rw [List.flatMap_cons, List.length_append, ih, List.countP_cons, List.length_cons]
    cases isControl b <;> simp <;> omega

/-- R126 by position: one byte more for each control value between the ends. -/
theorem length_stuff_snoc (a : Byte) (M : List Byte) (z : Byte) :
    (stuff (a :: M ++ [z])).length = M.length + 2 + M.countP isControl := by
  rw [stuff_snoc, List.length_append, List.length_cons, length_flatMap_escape, List.length_singleton]
  omega

/-- The bounds of R127: at least nothing and at most every byte between the ends is escaped. -/
theorem length_stuff_bounds {U : List Byte} (h : 2 ≤ U.length) :
    U.length ≤ (stuff U).length ∧ (stuff U).length ≤ 2 * U.length - 2 := by
  obtain rfl | ⟨a, rfl⟩ | ⟨a, M, z, rfl⟩ := snoc_cases U
  · simp at h
  · simp at h
  · have hcount : M.countP isControl ≤ M.length := List.countP_le_length
    have hlen : (a :: M ++ [z]).length = M.length + 2 := by simp
    rw [length_stuff_snoc, hlen]
    omega

/-! ## Sealing -/

/-- REQ_SEAL of an open request whose stuffed frame fits (R125). -/
theorem exec_reqSeal_fits {s : State} {b0 cmd : Byte} {P : List Byte} (imm : Byte) (hopen : s.block.reqOpen = true)
    (hreq : s.block.req = b0 :: cmd :: P) (hfits : (stuff (frame cmd P)).length ≤ s.cfg.bufCap) :
    exec (.reqSeal imm) s = .next (s.setBlock
      { s.block with
        req := frame cmd P, tx := stuff (frame cmd P), crcAcc := checksum (cmd :: P), reqOpen := false,
        xstate := .frameSent, lastCmd := cmd, opErr := .ok }) := by
  show execReqSeal imm s = _
  rw [execReqSeal, sealedFrame_eq hreq, if_neg (by simp [hopen]), if_neg (Nat.not_lt.mpr hfits), succeed_next.mpr rfl,
    openCmd_eq hreq, openPayload_eq hreq, List.singleton_append]

/-- Settles O29: a frame is five bytes longer than its payload, and the bound of R127 on its stuffed form fits the
capacity, for an empty payload because R7 allows no capacity below 8. -/
theorem shortRequestsAlwaysSeal : Obligations.ShortRequestsAlwaysSeal := by
  intro s imm b0 cmd P ⟨hcap, _⟩ hopen hreq hshort
  have hframe := length_frame cmd P
  obtain ⟨hlow, hhigh⟩ := length_stuff_bounds (U := frame cmd P) (by omega)
  have hreqLen : s.block.req.length = P.length + 2 := by rw [hreq]; rfl
  have hempty : P = [] → P.length = 0 := List.length_eq_zero_iff.mpr
  have hfits : (stuff (frame cmd P)).length ≤ s.cfg.bufCap := by
    obtain hP | hshort := hshort
    · have := hempty hP
      omega
    · omega
  refine ⟨_, exec_reqSeal_fits imm hopen hreq hfits, rfl, rfl, fun hP => ?_⟩
  have := hempty hP
  show 5 ≤ (stuff (frame cmd P)).length ∧ (stuff (frame cmd P)).length ≤ 8
  omega

end Sys2Proof.Machine
end

section
/-! PROOFS. What an operation, a host event and a step can do: one equation for every operation (R182 to R184), and
from it the cases of a step, for the statements to cite. -/

namespace Sys2Proof.Machine

/-! ## What an operation can do -/

/-- The frame REQ_SEAL makes, with the payload as R182's table has it: what follows the first two bytes. -/
theorem sealedFrame_eq_drop (b : Block) : sealedFrame b = frame (byteAt b.req 1) (b.req.drop 2) := by
  rw [sealedFrame, openPayload, slice, List.take_of_length_le (by omega), openCmd]

/-- What an operation that takes no error writes, OPERR apart: the successful branch of each `exec` arm. -/
def written (i : Instr) (s : State) : Block :=
  match i with
  | .nop _ => s.block
  | .crcClr _ => { s.block with crcAcc := 0x0000 }
  | .crcNib imm => { s.block with crcAcc := nibStep s.block.crcAcc (nibbleOperand imm) }
  | .crcByte imm => { s.block with crcAcc := byteStep s.block.crcAcc imm }
  | .srst _ => Block.reset
  | .reqStart cmd => { s.block with req := [beginMarker, cmd], reqOpen := true, xstate := .idle, echoMm := false }
  | .reqPut imm => { s.block with req := s.block.req ++ [imm] }
  | .reqSeal _ =>
    { s.block with
      req := sealedFrame s.block
      tx := stuff (sealedFrame s.block)
      crcAcc := checksum ([openCmd s.block] ++ openPayload s.block)
      reqOpen := false
      xstate := .frameSent
      lastCmd := openCmd s.block }
  | .rxStart _ => { s.block with rx := [], rxEof := false, rxOvf := false, xstate := .awaitingResponse }
  | .rxPut imm =>
    { s.block with
      rx := if s.block.rx.length < s.cfg.bufCap then s.block.rx ++ [imm] else s.block.rx
      rxOvf := if s.block.rx.length < s.cfg.bufCap then s.block.rxOvf else true
      rxEof := if imm = endMarker then true else s.block.rxEof }
  | .decode _ => { s.block with dec := unstuff s.block.rx }
  | .validate minLen => validated minLen s.block
  | .errClr _ => { s.block with errSeen := false, errWord := 0x0000 }

/-- Every operation runs to an end: the error the table of R182 gives it, or its writes (R183, R184). -/
theorem exec_eq (i : Instr) (s : State) :
    exec i s = if errorOf i s = .ok then succeed (written i s) s else opError (errorOf i s) (encode i) s := by
  cases i with
  | reqStart cmd =>
    show execReqStart cmd s = _
    by_cases hcmd : 1 ≤ cmd.toNat ∧ cmd.toNat ≤ 5
    · simp [execReqStart, isCommand_iff, errorOf, written, hcmd]
    · simp [execReqStart, isCommand_iff, errorOf, hcmd]
  | reqPut imm =>
    show execReqPut imm s = _
    by_cases hopen : s.block.reqOpen = false
    · simp [execReqPut, errorOf, hopen]
    · by_cases hfull : s.cfg.bufCap < s.block.req.length + 4
      · simp [execReqPut, errorOf, hopen, hfull]
      · simp [execReqPut, errorOf, written, hopen, hfull]
  | reqSeal imm =>
    show execReqSeal imm s = _
    have hframe := sealedFrame_eq_drop s.block
    by_cases hopen : s.block.reqOpen = false
    · simp [execReqSeal, errorOf, hopen]
    · by_cases hfull : s.cfg.bufCap < (stuff (sealedFrame s.block)).length
      · simp [execReqSeal, errorOf, hopen, hfull, ← hframe]
      · simp [execReqSeal, errorOf, written, hopen, hfull, ← hframe]
  | rxStart imm =>
    show execRxStart imm s = _
    by_cases hx : s.block.xstate = .frameSent
    · simp [execRxStart, errorOf, written, hx]
    · simp [execRxStart, errorOf, hx]
  | rxPut imm =>
    show execRxPut imm s = _
    by_cases hx : s.block.xstate = .awaitingResponse
    · simp [execRxPut, errorOf, written, hx]
    · simp [execRxPut, errorOf, hx]
  | validate minLen =>
    show execValidate minLen s = _
    by_cases hx : s.block.xstate = .awaitingResponse
    · simp [execValidate, errorOf, written, hx]
    · simp [execValidate, errorOf, hx]
  | nop | crcClr | crcNib | crcByte | srst | decode | errClr => rfl

/-! What the operations that can take an error need so as not to take one (R182). -/

theorem errorOf_reqStart {cmd : Byte} {s : State} :
    errorOf (.reqStart cmd) s = .ok ↔ 1 ≤ cmd.toNat ∧ cmd.toNat ≤ 5 := by simp [errorOf]

theorem errorOf_reqPut {imm : Byte} {s : State} :
    errorOf (.reqPut imm) s = .ok ↔ s.block.reqOpen = true ∧ s.block.req.length + 4 ≤ s.cfg.bufCap := by
  cases hopen : s.block.reqOpen <;> simp [errorOf, hopen]

theorem errorOf_reqSeal {imm : Byte} {s : State} :
    errorOf (.reqSeal imm) s = .ok ↔
      s.block.reqOpen = true ∧ (stuff (sealedFrame s.block)).length ≤ s.cfg.bufCap := by
  rw [sealedFrame_eq_drop]
  cases hopen : s.block.reqOpen <;> simp [errorOf, hopen]

theorem errorOf_rxStart {imm : Byte} {s : State} :
    errorOf (.rxStart imm) s = .ok ↔ s.block.xstate = .frameSent := by simp [errorOf]

theorem errorOf_rxPut {imm : Byte} {s : State} :
    errorOf (.rxPut imm) s = .ok ↔ s.block.xstate = .awaitingResponse := by simp [errorOf]

theorem errorOf_validate {minLen : Byte} {s : State} :
    errorOf (.validate minLen) s = .ok ↔ s.block.xstate = .awaitingResponse := by simp [errorOf]

/-- An operation that takes no error leaves ERRSEEN and ERRWORD, but SRST and ERR_CLR clear them (R184). -/
theorem written_errorRecord (i : Instr) (s : State) :
    ((written i s).errSeen = s.block.errSeen ∧ (written i s).errWord = s.block.errWord) ∨
      (i.opc = 0x0F ∨ i.opc = 0x30) ∧ (written i s).errSeen = false ∧ (written i s).errWord = 0x0000 := by
  cases i with
  | srst => exact .inr ⟨.inl rfl, rfl, rfl⟩
  | errClr => exact .inr ⟨.inr rfl, rfl, rfl⟩
  | _ => exact .inl ⟨rfl, rfl⟩

/-- LAST_CMD is left alone but by SRST and REQ_SEAL (R29). -/
theorem written_lastCmd (i : Instr) (s : State) :
    (written i s).lastCmd = s.block.lastCmd ∨ (written i s).lastCmd = 0x00 ∨
      ∃ imm, i = .reqSeal imm ∧ (written i s).lastCmd = byteAt s.block.req 1 := by
  cases i with
  | srst => exact .inr (.inl rfl)
  | reqSeal imm => exact .inr (.inr ⟨imm, rfl, rfl⟩)
  | _ => exact .inl rfl

/-- Everything an operation can do to the state: an error writes the error record alone, a success its writes with
OPERR cleared. -/
theorem exec_cases {i : Instr} {s t : State} (h : exec i s = .next t) :
    (errorOf i s ≠ .ok ∧
      t = s.setBlock { s.block with opErr := errorOf i s, errSeen := true, errWord := encode i }) ∨
    (errorOf i s = .ok ∧ t = s.setBlock { written i s with opErr := .ok }) := by
  rw [exec_eq] at h
  split at h
  case isTrue hok => exact .inr ⟨hok, succeed_next.mp h⟩
  case isFalse herr => exact .inl ⟨herr, opError_next.mp h⟩

/-- No operation stops the machine (R180, R196). -/
theorem exec_completes (i : Instr) (s : State) : ∃ t, exec i s = .next t := by
  rw [exec_eq]
  split
  · exact ⟨_, succeed_next.mpr rfl⟩
  · exact ⟨_, opError_next.mpr rfl⟩

/-! ## What a step can do -/

/-- A word's OPC is that of the operation it decodes to (R75). -/
theorem opcField_of_decode {w : Word} {i : Instr} (h : decode w = .ok i) : opcField w = i.opc := by
  unfold decode at h
  split at h <;> cases h <;> assumption

/-- A write elsewhere than to CMD is ignored (R53). -/
theorem memWrite_elsewhere {a : Addr} (ha : a ≠ 0x000#11) (w : Word) (s : State) : memWrite a w s = .next s :=
  if_neg ha

/-- No host event stops the machine (R180, R196). -/
theorem hostEvent_completes (e : HostEvent) (s : State) : ∃ t, hostEvent e s = .next t := by
  obtain (a | ⟨a, w⟩) | lost := e
  · exact ⟨_, rfl⟩
  · by_cases ha : a = 0x000#11
    · subst ha
      show ∃ t, memWrite 0x000#11 w s = .next t
      rw [memWrite_cmd]
      cases hd : decode w with
      | ok i => exact execute_ok (s := s) hd ▸ exec_completes i s
      | error r => exact ⟨_, (execute_error hd).trans (opError_next.mpr rfl)⟩
    · exact ⟨s, memWrite_elsewhere ha w s⟩
  · exact ⟨_, rfl⟩

theorem step_completes (s : State) : ∃ t, step s = .next t := by
  cases hp : s.pending with
  | nil => exact ⟨s, step_idle hp⟩
  | cons e rest => exact step_event hp ▸ hostEvent_completes e _

/-- No step writes the configuration (R43; log 1), each takes the oldest host event (R61), and four things can become
of the state elements: nothing; a reset; the writes of an operation that takes no error; or the error record alone,
written by an operation or by an undefined word. -/
theorem step_cases {s t : State} (h : step s = .next t) :
    t.cfg = s.cfg ∧ t.pending = s.pending.tail ∧
    (t.block = s.block ∨
      (∃ lost rest, s.pending = .reset lost :: rest ∧ t.block = Block.reset) ∨
      (∃ w i rest, s.pending = .access (.write 0x000#11 w) :: rest ∧ decode w = .ok i ∧ errorOf i s = .ok ∧
        t.block = { written i s with opErr := .ok }) ∨
      ∃ code w, t.block = { s.block with opErr := code, errSeen := true, errWord := w }) := by
  cases hp : s.pending with
  | nil =>
    rw [step_idle hp, Host.Outcome.next.injEq] at h
    exact ⟨by rw [h], by rw [← h, hp, List.tail_nil], .inl (by rw [h])⟩
  | cons e rest =>
    rw [step_event hp] at h
    obtain ⟨a, -, rfl⟩ | ⟨a, w, -, -, rfl⟩ | ⟨w, i, rfl, hd, hexec⟩ | ⟨w, r, -, -, herr⟩ | ⟨lost, rfl, rfl⟩ :=
      hostEvent_cases h
    · exact ⟨rfl, rfl, .inl rfl⟩
    · exact ⟨rfl, rfl, .inl rfl⟩
    · obtain ⟨-, rfl⟩ | ⟨hok, rfl⟩ := exec_cases hexec
      · exact ⟨rfl, rfl, .inr (.inr (.inr ⟨_, _, rfl⟩))⟩
      · exact ⟨rfl, rfl, .inr (.inr (.inl ⟨w, i, rest, rfl, hd, hok, rfl⟩))⟩
    · obtain rfl := opError_next.mp herr
      exact ⟨rfl, rfl, .inr (.inr (.inr ⟨_, _, rfl⟩))⟩
    · exact ⟨by simp, by simp, .inr (.inl ⟨lost, rest, rfl, by simp⟩)⟩

end Sys2Proof.Machine
end

section
/-! PROOFS. The statements of 10_state.md: the invariants of R40, the writers of the state elements (R22 to R29), the
register map (R30 to R39) and reset (R41). -/

namespace Sys2Proof.Machine

/-! ## The invariants of R40 -/

/-- Appending a byte leaves the bytes before it. -/
theorem byteAt_append {L : List Byte} {i : Nat} (h : i < L.length) (M : List Byte) :
    byteAt (L ++ M) i = byteAt L i := List.getD_append L M _ i h

/-- A sequence of two bytes or more by its first two and the rest. -/
theorem cons_cons_of_length {L : List Byte} (h : 2 ≤ L.length) : ∃ b0 b1 P, L = b0 :: b1 :: P := by
  match L, h with
  | b0 :: b1 :: P, _ => exact ⟨b0, b1, P, rfl⟩

/-- The payload of a frame stands between its command and its three last bytes (R120). -/
theorem slice_frame (cmd : Byte) (P : List Byte) : slice (frame cmd P) 2 ((frame cmd P).length - 4) = P := by
  simp [slice, frame]

/-- R41: every buffer is empty, no request is open and the exchange is Idle. -/
theorem inv_reset (cap : Nat) : Block.reset.Inv cap :=
  ⟨by simp [Block.reset], fun hopen => absurd hopen Bool.false_ne_true, fun hx => absurd rfl hx⟩

/-- R123: a new request is its begin-marker and a command, in Idle. -/
theorem inv_written_reqStart {s : State} (h : s.Inv) {cmd : Byte} (hcmd : 1 ≤ cmd.toNat ∧ cmd.toNat ≤ 5) :
    (written (.reqStart cmd) s).Inv s.cfg.bufCap := by
  obtain ⟨⟨hcap, -⟩, ⟨-, htx, hrx, hdec⟩, -, -⟩ := h
  have hreq : 2 ≤ s.cfg.bufCap := by omega
  exact ⟨⟨hreq, htx, hrx, hdec⟩, fun _ => ⟨rfl, le_refl 2, rfl, hcmd⟩, fun hx => absurd rfl hx⟩

/-- R124: a payload byte fits and leaves the two bytes that the request began with. -/
theorem inv_written_reqPut {s : State} (h : s.Inv) {imm : Byte} (hopen : s.block.reqOpen = true)
    (hfits : s.block.req.length + 4 ≤ s.cfg.bufCap) : (written (.reqPut imm) s).Inv s.cfg.bufCap := by
  obtain ⟨-, ⟨-, htx, hrx, hdec⟩, hbegun, -⟩ := h
  obtain ⟨hidle, hlen, hbegin, hcmd⟩ := hbegun hopen
  have hlen' : (s.block.req ++ [imm]).length = s.block.req.length + 1 := List.length_append
  refine ⟨⟨hlen'.trans_le (by omega), htx, hrx, hdec⟩, fun _ => ⟨hidle, hlen'.ge.trans' (by omega), ?_, ?_⟩,
    fun hx => absurd hidle hx⟩
  · exact (byteAt_append (by omega) _).trans hbegin
  · show 1 ≤ (byteAt (s.block.req ++ [imm]) 1).toNat ∧ (byteAt (s.block.req ++ [imm]) 1).toNat ≤ 5
    rwa [byteAt_append (by omega)]

/-- R125: the sealed request is a frame, no longer than its stuffed form, which fits. -/
theorem inv_written_reqSeal {s : State} (h : s.Inv) {imm : Byte} (hopen : s.block.reqOpen = true)
    (hfits : (stuff (sealedFrame s.block)).length ≤ s.cfg.bufCap) : (written (.reqSeal imm) s).Inv s.cfg.bufCap := by
  obtain ⟨-, ⟨-, -, hrx, hdec⟩, hbegun, -⟩ := h
  obtain ⟨-, hlen, -⟩ := hbegun hopen
  obtain ⟨b0, cmd, P, hreq⟩ := cons_cons_of_length hlen
  have hframe := sealedFrame_eq hreq
  have hframeLen : (frame cmd P).length = P.length + 5 := length_frame cmd P
  obtain ⟨hgrows, -⟩ := length_stuff_bounds (U := frame cmd P) (by omega)
  rw [hframe] at hfits
  simp only [written, hframe, openCmd_eq hreq]
  refine ⟨⟨hgrows.trans hfits, hfits, hrx, hdec⟩, fun hopen' => absurd hopen' Bool.false_ne_true, fun _ => ?_⟩
  rw [byteAt_frame_one, slice_frame]
  exact ⟨rfl, hframeLen ▸ Nat.le_add_left 5 _, rfl, rfl, rfl⟩

/-- During an exchange the invariant needs of the next state only that the sealed request is as it was and that RX and
DEC fit: what the operations of the receiver have in common. -/
theorem inv_of_request_kept {cap : Nat} {b b' : Block} (h : b.Inv cap) (hx : b.xstate ≠ .idle)
    (hopen : b'.reqOpen = b.reqOpen) (hreq : b'.req = b.req) (htx : b'.tx = b.tx) (hcmd : b'.lastCmd = b.lastCmd)
    (hrx : b'.rx.length ≤ cap) (hdec : b'.dec.length ≤ cap) : b'.Inv cap := by
  obtain ⟨⟨hreqFits, htxFits, -, -⟩, -, hsealed⟩ := h
  have hsealed := hsealed hx
  rw [← hopen, ← hreq, ← htx, ← hcmd] at hsealed
  rw [← hreq] at hreqFits
  rw [← htx] at htxFits
  exact ⟨⟨hreqFits, htxFits, hrx, hdec⟩, fun hopen' => absurd hopen' (by simp [hsealed.1]), fun _ => hsealed⟩

/-- The writes of an operation that takes no error keep the invariant of R40. -/
theorem inv_written {s : State} (h : s.Inv) {i : Instr} (hok : errorOf i s = .ok) :
    (written i s).Inv s.cfg.bufCap := by
  have hblock := h.2
  obtain ⟨hreq, htx, hrx, hdec⟩ := hblock.1
  have hunstuff : (unstuff s.block.rx).length ≤ s.cfg.bufCap := (length_unstuff_le _).trans hrx
  cases i with
  | nop | crcClr | crcNib | crcByte | errClr => exact hblock
  | decode => exact ⟨⟨hreq, htx, hrx, hunstuff⟩, hblock.2⟩
  | srst => exact inv_reset s.cfg.bufCap
  | reqStart cmd => exact inv_written_reqStart h (errorOf_reqStart.mp hok)
  | reqPut imm =>
    obtain ⟨hopen, hfits⟩ := errorOf_reqPut.mp hok
    exact inv_written_reqPut h hopen hfits
  | reqSeal imm =>
    obtain ⟨hopen, hfits⟩ := errorOf_reqSeal.mp hok
    exact inv_written_reqSeal h hopen hfits
  | rxStart imm =>
    have hx := errorOf_rxStart.mp hok
    exact inv_of_request_kept hblock (by simp [hx]) rfl rfl rfl rfl (Nat.zero_le _) hdec
  | rxPut imm =>
    have hx := errorOf_rxPut.mp hok
    have hroom : (written (.rxPut imm) s).rx.length ≤ s.cfg.bufCap := by
      simp only [written]
      split
      · rw [List.length_append, List.length_singleton]
        omega
      · exact hrx
    exact inv_of_request_kept hblock (by simp [hx]) rfl rfl rfl rfl hroom hdec
  | validate minLen =>
    have hx := errorOf_validate.mp hok
    exact inv_of_request_kept hblock (by simp [hx]) rfl rfl rfl rfl hrx hunstuff

/-- Settles O54, by what a step can do: only the writes of an operation that takes no error matter to the invariant. -/
theorem stepKeepsExchangeInvariant : Obligations.StepKeepsExchangeInvariant := by
  intro s t h hstep
  obtain ⟨hcfg, -, hsame | ⟨-, -, -, hreset⟩ | ⟨w, i, rest, -, -, hok, hwrites⟩ | ⟨code, w, herror⟩⟩ := step_cases hstep
  all_goals rw [State.Inv, hcfg]
  · exact hsame ▸ h
  · exact ⟨h.1, hreset ▸ inv_reset _⟩
  · exact ⟨h.1, hwrites ▸ inv_written h hok⟩
  · exact ⟨h.1, herror ▸ h.2⟩

/-- Settles O53. -/
theorem resetStateMeetsInvariant : Obligations.ResetStateMeetsInvariant :=
  ⟨⟨by decide, inv_reset _⟩, rfl, rfl, fun cfg _ => inv_reset cfg.bufCap⟩

/-- A run from a state that meets the invariant completes, by induction on its steps. -/
theorem runSteps_keeps_inv (n : Nat) {s : State} (h : s.Inv) :
    ∃ t, runSteps n s = .next t ∧ t.Inv ∧ t.cfg = s.cfg := by
  induction n generalizing s with
  | zero => exact ⟨s, rfl, h, rfl⟩
  | succ n ih =>
    obtain ⟨u, hstep⟩ := step_completes s
    obtain ⟨t, hrun, ht, hcfg⟩ := ih (stepKeepsExchangeInvariant s u h hstep)
    exact ⟨t, (runSteps_succ hstep).trans hrun, ht, hcfg.trans (step_cases hstep).1⟩

/-- Settles O55. -/
theorem everyRunKeepsExchangeInvariant : Obligations.EveryRunKeepsExchangeInvariant :=
  fun cfg _ n hcfg => runSteps_keeps_inv n ⟨hcfg, inv_reset cfg.bufCap⟩

/-- Settles O46: removing the stuffing never makes a sequence longer, and a VALIDATE that succeeds took no error. -/
theorem decNoLongerThanRx : Obligations.DecNoLongerThanRx := by
  intro s t imm
  constructor
  · intro h
    obtain ⟨herr, -⟩ | ⟨-, rfl⟩ := exec_cases h
    · exact absurd rfl herr
    · exact length_unstuff_le _
  · intro h hok
    obtain ⟨herr, rfl⟩ | ⟨-, rfl⟩ := exec_cases h
    · exact absurd hok herr
    · exact length_unstuff_le _

/-! ## The writers of each element -/

/-- Settles O51, by cases on the operation: an error writes the error record alone, and every other writer is one of
the listed operations by its own writes. -/
theorem writersOfEachElement : Obligations.WritersOfEachElement := by
  intro i s t h
  obtain ⟨herr, rfl⟩ | ⟨hok, rfl⟩ := exec_cases h
  · simp [herr]
  · cases i <;> simp [written, validated, hok]

/-- A step keeps ERRSEEN when the event it serves is none that clears it (R26). -/
theorem step_keeps_errSeen {s t : State} (h : step s = .next t) (hseen : s.block.errSeen = true)
    (hkeep : ∀ e rest, s.pending = e :: rest → clearsErrors e = false) : t.block.errSeen = true := by
  obtain ⟨-, -, hsame | ⟨lost, rest, hp, -⟩ | ⟨w, i, rest, hp, hd, -, hwrites⟩ | ⟨code, w, herror⟩⟩ := step_cases h
  · rwa [hsame]
  · exact absurd (hkeep _ _ hp) Bool.false_ne_true.symm
  · obtain ⟨hsame, -⟩ | ⟨hclears, -⟩ := written_errorRecord i s
    · rw [hwrites]
      exact hsame.trans hseen
    · have hopc := opcField_of_decode hd
      have := hkeep _ _ hp
      obtain hi | hi := hclears <;> simp [clearsErrors, hopc, hi] at this
  · rw [herror]

/-- Settles O49, by induction on the steps of the run. -/
theorem errSeenIsSticky : Obligations.ErrSeenIsSticky := by
  intro n
  induction n with
  | zero =>
    intro s t hseen _ hrun
    obtain rfl : s = t := by simpa using hrun
    exact hseen
  | succ n ih =>
    intro s t hseen hkeep hrun
    obtain ⟨u, hstep⟩ := step_completes s
    rw [runSteps_succ hstep] at hrun
    obtain ⟨-, hpending, -⟩ := step_cases hstep
    refine ih u t (step_keeps_errSeen hstep hseen fun e rest hp => hkeep e (by simp [hp])) (fun e he => hkeep e ?_) hrun
    rw [hpending, ← List.drop_one, List.take_drop, Nat.add_comm] at he
    exact List.mem_of_mem_drop he

/-- Settles O52, by what a step can do and, for the operations, by cases on the operation that ran. -/
theorem exchangeStateTransitions : Obligations.ExchangeStateTransitions := by
  intro s t h hne
  obtain ⟨-, -, hsame | ⟨lost, rest, hp, hreset⟩ | ⟨w, i, rest, hp, hd, hok, hwrites⟩ | ⟨code, w, herror⟩⟩ :=
    step_cases h
  · exact absurd (congrArg Block.xstate hsame) hne
  · exact .inl ⟨lost, rest, hp, by rw [hreset]; rfl⟩
  · refine .inr ⟨w, i, rest, hp, hd, ?_⟩
    rw [hwrites] at hne ⊢
    cases i with
    | srst imm => exact .inl ⟨imm, .inl rfl, rfl⟩
    | reqStart cmd => exact .inl ⟨cmd, .inr rfl, rfl⟩
    | reqSeal imm => exact .inr (.inl ⟨imm, rfl, rfl⟩)
    | rxStart imm => exact .inr (.inr (.inl ⟨imm, rfl, errorOf_rxStart.mp hok, rfl⟩))
    | validate minLen =>
      refine .inr (.inr (.inr ⟨minLen, rfl, errorOf_validate.mp hok, ?_⟩))
      obtain ⟨-, hv⟩ | ⟨-, -, hv⟩ | ⟨-, -, -, hv⟩ | ⟨-, -, -, hv⟩ := verdict_cases s.block.rx minLen s.block.lastCmd
      · exact .inl hv
      · exact .inr (.inl hv)
      · exact .inr (.inr (.inr hv))
      · exact .inr (.inr (.inl hv))
    | _ => exact absurd rfl hne
  · exact absurd (by rw [herror]) hne

/-- Settles O56: an error sets ERRSEEN and a success clears OPERR; and REQ_SEAL, which alone writes LAST_CMD, finds the
command of an open request in it. -/
theorem stepKeepsErrorRecordAndLastCmd : Obligations.StepKeepsErrorRecordAndLastCmd := by
  intro s t h
  obtain ⟨-, -, hsame | ⟨-, -, -, hreset⟩ | ⟨w, i, rest, -, -, hok, hwrites⟩ | ⟨code, w, herror⟩⟩ := step_cases h
  · rw [hsame]
    exact ⟨id, fun _ => id⟩
  · rw [hreset]
    exact ⟨fun _ _ => ⟨rfl, rfl⟩, fun _ _ => Nat.zero_le 5⟩
  · rw [hwrites]
    constructor
    · intro hrec hseen
      obtain ⟨hseen', hword⟩ | ⟨-, -, hword⟩ := written_errorRecord i s
      · exact ⟨rfl, hword.trans (hrec (hseen'.symm.trans hseen)).2⟩
      · exact ⟨rfl, hword⟩
    · rintro ⟨-, -, hbegun, -⟩ hknown
      show (written i s).lastCmd.toNat ≤ 5
      obtain hkept | hzero | ⟨imm, rfl, hcmd⟩ := written_lastCmd i s
      · rwa [hkept]
      · simp [hzero]
      · obtain ⟨hopen, -⟩ := errorOf_reqSeal.mp hok
        obtain ⟨-, -, -, -, hle⟩ := hbegun hopen
        rwa [hcmd]
  · rw [herror]
    exact ⟨fun _ hseen => absurd hseen Bool.false_ne_true.symm, fun _ => id⟩

/-! ## The register map -/

/-- The bits of a register field: those of its value, from its place on. -/
@[simp] theorem getElem_field {n : Nat} (v : BitVec n) (lsb i : Nat) (hi : i < 16) :
    (field v lsb)[i] = (decide (lsb ≤ i) && v.getLsbD (i - lsb)) := by
  by_cases hl : lsb ≤ i
  · simp [field, hl]
  · simp [field, hl, show i < lsb by omega]

/-- Bits [2:0] of STATUS (R31). -/
theorem statusWord_xstate (b : Block) : (statusWord b).extractLsb' 0 3 = b.xstate.code := by
  ext i hi
  interval_cases i <;> simp [statusWord, flag]

/-- Bits [10:8] of STATUS (R31). -/
theorem statusWord_opErr (b : Block) : (statusWord b).extractLsb' 8 3 = b.opErr.code := by
  ext i hi
  interval_cases i <;> simp [statusWord, flag]

/-- Bits [15:12] of STATUS (R31). -/
theorem statusWord_reserved (b : Block) : (statusWord b).extractLsb' 12 4 = 0 := by
  ext i hi
  interval_cases i <;> simp [statusWord, flag]

/-- The one-bit fields of STATUS (R31). -/
theorem statusWord_flags (b : Block) :
    (statusWord b)[3] = b.echoMm ∧ (statusWord b)[4] = b.rxEof ∧ (statusWord b)[5] = b.rxOvf ∧
      (statusWord b)[6] = b.reqOpen ∧ (statusWord b)[7] = b.verValid ∧ (statusWord b)[11] = b.errSeen := by
  simp [statusWord, flag]

/-- Settles O11, field by field; the code tables of R23 and R181 are checked constructor by constructor. -/
theorem statusWordFields : Obligations.StatusWordFields := by
  refine ⟨fun s w => ?_, rfl⟩
  have hread : memRead s 0x001 = statusWord s.block := rfl
  obtain ⟨hechoMm, hrxEof, hrxOvf, hreqOpen, hverValid, herrSeen⟩ := statusWord_flags s.block
  simp only [hread, statusWord_xstate, statusWord_opErr]
  refine ⟨?_, hechoMm, hrxEof, hrxOvf, hreqOpen, hverValid, ?_, ?_, ?_, herrSeen, statusWord_reserved _,
    memWrite_elsewhere (by decide) w s⟩
  · cases s.block.xstate <;> rfl
  · cases s.block.opErr <;> rfl
  · cases s.block.xstate <;> decide
  · cases s.block.opErr <;> decide

/-- A length register reads the length of a buffer that fits (R34, R25). -/
theorem lenWord_toNat {L : List Byte} (h : L.length ≤ 256) : (lenWord L).toNat = L.length := by
  rw [lenWord, lenField, BitVec.toNat_setWidth, BitVec.toNat_ofNat]
  omega

/-- CAP reads the capacity (R37). -/
theorem capWord_toNat {c : Config} (h : c.WF) : (capWord c).toNat = c.bufCap := by
  obtain ⟨-, hmax⟩ := h
  rw [capWord, BitVec.toNat_setWidth, BitVec.toNat_ofNat]
  omega

/-- VERSION reads MAJOR above MINOR (R33). -/
theorem versionWord_toNat (b : Block) : (versionWord b).toNat = b.major.toNat * 256 + b.minor.toNat := by
  have hpacked : (versionWord b).toNat = b.minor.toNat + 256 * b.major.toNat := ofLoHi_toNat b.minor b.major
  omega

/-- LAST_CMD reads the command byte (R35). -/
theorem lastCmdWord_toNat (b : Block) : (lastCmdWord b).toNat = b.lastCmd.toNat := by
  rw [lastCmdWord, BitVec.toNat_setWidth]
  omega

/-- Settles O12: VERSION and LAST_CMD by their packing, the other registers are the elements themselves. -/
theorem oneWordRegistersRead : Obligations.OneWordRegistersRead := by
  refine ⟨fun s w => ?_, rfl, rfl, rfl, rfl⟩
  have hignored : ∀ a : Addr, a ≠ 0x000#11 → memWrite a w s = .next s := fun a ha => memWrite_elsewhere ha w s
  exact ⟨rfl, memWrite_cmd, rfl, hignored 0x002 (by decide), versionWord_toNat _,
    hignored 0x003 (by decide), lastCmdWord_toNat _, hignored 0x008 (by decide), rfl, hignored 0x009 (by decide)⟩

/-- Settles O13. -/
theorem lengthAndCapRegistersRead : Obligations.LengthAndCapRegistersRead := by
  rintro s ⟨hcap, ⟨hreq, htx, hrx, hdec⟩, -⟩
  have hmax := hcap.2
  exact ⟨lenWord_toNat (hreq.trans hmax), lenWord_toNat (htx.trans hmax), lenWord_toNat (hrx.trans hmax),
    lenWord_toNat (hdec.trans hmax), capWord_toNat hcap, hreq.trans hmax, hmax⟩

/-- A buffer's window is one of the pages 1 to 4 (R59). -/
theorem memRead_window {s : State} {page : BitVec 3} {L : List Byte} (i : Byte)
    (h : (page, L) ∈ [(1, s.block.req), (2, s.block.tx), (3, s.block.rx), (4, s.block.dec)]) :
    memRead s (page ++ i) = windowWord L i := by
  simp only [List.mem_cons, Prod.mk.injEq, List.not_mem_nil, or_false] at h
  rw [memRead, busReg, extract_append_high, extract_append_low]
  obtain ⟨rfl, rfl⟩ | ⟨rfl, rfl⟩ | ⟨rfl, rfl⟩ | ⟨rfl, rfl⟩ := h <;> rfl

/-- Settles O14. -/
theorem windowsReadBuffers : Obligations.WindowsReadBuffers := by
  intro s i w page L h
  rw [memRead_window i h, windowWord]
  refine ⟨fun hi => ?_, fun hi => ?_, memWrite_elsewhere ?_ w s⟩
  · rw [List.getD_eq_getElem _ _ hi]
  · rw [List.getD_eq_default _ _ hi]
    rfl
  · intro ha
    have hpage : page = 0#3 := by rw [← extract_append_high page i, ha]; rfl
    simp [hpage] at h

/-- The reserved addresses are the rest of page 0 and the pages from 5 on (R39, R59). -/
theorem busReg_reserved {a : Addr} (h : (0x00B ≤ a.toNat ∧ a.toNat ≤ 0x0FF) ∨ 0x500 ≤ a.toNat) :
    busReg a = .reserved := by
  have hpage : (a.extractLsb' 8 3).toNat = a.toNat / 256 := by
    rw [BitVec.extractLsb'_toNat, Nat.shiftRight_eq_div_pow]
    omega
  have hword : (a.extractLsb' 0 8).toNat = a.toNat % 256 := by
    rw [BitVec.extractLsb'_toNat, Nat.shiftRight_zero]
  obtain ⟨hlow, hhigh⟩ | hhigh := h
  · simp only [busReg, hpage, hword, show a.toNat / 256 = 0 by omega]
    split <;> simp <;> omega
  · simp only [busReg, hpage]
    split <;> simp <;> omega

/-- Settles O15. -/
theorem reservedAddressesReadZero : Obligations.ReservedAddressesReadZero := by
  intro s a w h
  refine ⟨by rw [memRead, busReg_reserved h]; rfl, memWrite_elsewhere ?_ w s⟩
  rintro rfl
  simp at h

/-- Settles O16: SRST and the reset input write the same state, whose block is `Block.reset` written out. -/
theorem resetInputAndSoftReset : Obligations.ResetInputAndSoftReset := by
  intro s imm
  have hdecode : decode (0x0F#8 ++ imm) = .ok (.srst imm) := by simp [decode]
  exact ⟨hdecode, rfl, rfl⟩

end Sys2Proof.Machine
end

section
/-! PROOFS. The statements of 20_memory.md: bus reads and writes (R52, R53, R58), the step as the host's next event
(R21, R53), and runs (R61). -/

namespace Sys2Proof.Machine

/-! ## Bus reads -/

/-- A read depends on the state elements and the capacity alone, not on the host's side of the bus (R52). -/
theorem memRead_congr {s t : State} (hblock : t.block = s.block) (hcfg : t.cfg = s.cfg) (a : Addr) :
    memRead t a = memRead s a := by
  unfold memRead
  cases busReg a <;> simp only [readReg, hblock, hcfg]

@[simp] theorem memRead_with_pending (s : State) (events : List HostEvent) (a : Addr) :
    memRead { s with pending := events } a = memRead s a := memRead_congr rfl rfl a

@[simp] theorem memRead_deliver (s : State) (v : Word) (a : Addr) : memRead (s.deliver v) a = memRead s a :=
  memRead_congr (s.deliver_block v) (s.deliver_cfg v) a

/-- A step that serves a read takes the event and records the value the register map gives (R52; log 4). -/
theorem step_read {s : State} {a : Addr} {rest : List HostEvent} (h : s.pending = .access (.read a) :: rest) :
    step s = .next (({ s with pending := rest } : State).deliver (memRead s a)) := by
  rw [step_event h, hostEvent, memRead_with_pending]

/-- Settles O7: the first read leaves everything that the second depends on. -/
theorem repeatedReadReturnsSameValue : Obligations.RepeatedReadReturnsSameValue := by
  intro s a rest h
  have hsecond := step_read (s := ({ s with pending := .access (.read a) :: rest } : State).deliver (memRead s a)) rfl
  rw [memRead_deliver, memRead_with_pending] at hsecond
  rw [runSteps_succ (step_read h), runSteps_succ hsecond]
  rfl

/-! ## Runs -/

/-- A run completes, takes one host event a step from the front of the queue and leaves the configuration (R61,
R196). -/
theorem runSteps_completes (n : Nat) (s : State) :
    ∃ t, runSteps n s = .next t ∧ t.pending = s.pending.drop n ∧ t.cfg = s.cfg := by
  induction n generalizing s with
  | zero => exact ⟨s, rfl, rfl, rfl⟩
  | succ n ih =>
    obtain ⟨u, hstep⟩ := step_completes s
    obtain ⟨hcfg, hpending, -⟩ := step_cases hstep
    obtain ⟨t, hrun, hpending', hcfg'⟩ := ih u
    refine ⟨t, (runSteps_succ hstep).trans hrun, ?_, hcfg'.trans hcfg⟩
    rw [hpending', hpending, List.drop_tail]

/-- A run of `m + n` steps is a run of `n` steps from where the first `m` steps end. -/
theorem runSteps_add {m : Nat} (n : Nat) {s t : State} (h : runSteps m s = .next t) :
    runSteps (m + n) s = runSteps n t := by
  induction m generalizing s with
  | zero =>
    obtain rfl : s = t := by simpa using h
    rw [Nat.zero_add]
  | succ m ih =>
    obtain ⟨u, hstep⟩ := step_completes s
    rw [runSteps_succ hstep] at h
    rw [Nat.succ_add, runSteps_succ hstep, ih h]

/-- Settles O10. -/
theorem runsServeEventsInOrder : Obligations.RunsServeEventsInOrder :=
  ⟨runSteps_completes, fun _ _ _ _ _ hp hevent => runSteps_succ ((step_event hp).trans hevent),
    fun _ n _ _ hrun => runSteps_add n hrun⟩

/-! ## CMD writes -/

/-- The word of an operation decodes to it (R73, R75). -/
@[simp] theorem decode_encode (i : Instr) : decode (encode i) = .ok i := by
  cases i <;> simp [decode, encode, Instr.opc, Instr.imm]

/-- A step that serves a CMD write of a word that decodes is that word's operation (R53). -/
theorem step_cmd_write {s : State} {w : Word} {i : Instr} {rest : List HostEvent}
    (hp : s.pending = .access (.write 0x000#11 w) :: rest) (hd : decode w = .ok i) :
    step s = exec i { s with pending := rest } := by
  rw [step_event hp, hostEvent, memWrite_cmd, execute_ok hd]

/-- A 16-bit word is placed as it is, as a CMD write in front of the queue (log 7). -/
theorem withFetchWord_toNat (s : State) (w : Word) : s.withFetchWord 16 w.toNat = s.pushCmd w := by
  rw [State.withFetchWord, Nat.mod_eq_of_lt w.isLt, BitVec.ofNat_toNat, BitVec.setWidth_eq]

/-- Settles O4: the last two clauses are a CMD write in front of the queue and the empty queue. -/
theorem stepExecutesDecodedWord : Obligations.StepExecutesDecodedWord := by
  refine ⟨fun _ _ _ => step_event, fun _ _ _ _ => step_cmd_write, fun s i => ?_, fun _ => step_idle⟩
  rw [withFetchWord_toNat]
  exact step_cmd_write (s.pushCmd_pending (encode i)) (decode_encode i)

/-- Settles O6. -/
theorem onlyCmdWritesExecute : Obligations.OnlyCmdWritesExecute :=
  ⟨fun s _ w ha => memWrite_elsewhere ha w s, fun _ _ => memWrite_cmd⟩

end Sys2Proof.Machine
end

section
/-! PROOFS. The statements of 30_encoding.md: the decoder and the encoder (R73, R75), undefined words (R76) and what
the operand byte can change (R74, R77). -/

namespace Sys2Proof.Machine

/-! ## Words and operations -/

/-- A word's IMM8 is the operand of the operation it decodes to (R73). -/
theorem immField_of_decode {w : Word} {i : Instr} (h : decode w = .ok i) : immField w = i.imm := by
  unfold decode at h
  split at h <;> cases h <;> rfl

/-- Settles O1: a word is its two fields, and decoding hands both to the operation. -/
theorem decodeInvertsEncode : Obligations.DecodeInvertsEncode := by
  intro w i
  constructor
  · intro h
    rw [encode, ← opcField_of_decode h, ← immField_of_decode h, opcField_append_immField]
  · rintro rfl
    exact decode_encode i

/-- Settles O3. -/
theorem writtenWordsDecode : Obligations.WrittenWordsDecode := by
  unfold Obligations.WrittenWordsDecode
  decide

/-! ## Undefined words -/

/-- R76's ranges are what R75's map leaves out. -/
theorem illegalOpc_iff (opc : Byte) :
    illegalOpc opc ↔
      opc ∉ [0x00#8, 0x01, 0x02, 0x03, 0x0F, 0x10, 0x11, 0x12, 0x20, 0x21, 0x22, 0x23, 0x30] := by
  revert opc; decide

/-- No operation has an OPC of R76's ranges. -/
theorem not_illegalOpc_opc (i : Instr) : ¬ illegalOpc i.opc := by
  rw [illegalOpc_iff, not_not]
  cases i <;> simp [Instr.opc]

/-- A word is rejected for its OPC alone, which is then in R76's ranges. -/
theorem illegalOpc_of_decode_error {w : Word} {r : Reject} (h : decode w = .error r) :
    r = .undefinedOpcode (opcField w) ∧ illegalOpc (opcField w) := by
  unfold decode at h
  split at h
  case h_14 =>
    cases h
    exact ⟨rfl, (illegalOpc_iff _).mpr (by simp_all)⟩
  all_goals cases h

/-- A word whose OPC is in R76's ranges is rejected. -/
theorem decode_of_illegalOpc {w : Word} (h : illegalOpc (opcField w)) :
    decode w = .error (.undefinedOpcode (opcField w)) := by
  cases hd : decode w with
  | ok i => exact absurd (opcField_of_decode hd ▸ h) (not_illegalOpc_opc i)
  | error r => rw [(illegalOpc_of_decode_error hd).1]

/-- Settles O2. -/
theorem decodeRejectsExactlyIllegalOpcodes : Obligations.DecodeRejectsExactlyIllegalOpcodes :=
  fun _ => ⟨fun h => (illegalOpc_of_decode_error h).2, decode_of_illegalOpc⟩

/-- Settles O5: a rejected word takes the error, which writes the error record alone (R183). -/
theorem illegalOpcodeTakesError : Obligations.IllegalOpcodeTakesError :=
  fun _ _ h => (execute_error (decode_of_illegalOpc h)).trans (opError_next.mpr rfl)

/-! ## The operand byte -/

/-- Every operation leaves in OPERR the code that the table of R182 gives it (R183, R184). -/
theorem opErr_of_exec {i : Instr} {s t : State} (h : exec i s = .next t) : t.block.opErr = errorOf i s := by
  obtain ⟨-, rfl⟩ | ⟨hok, rfl⟩ := exec_cases h
  · rfl
  · exact hok.symm

/-- In the table of R182, BAD_COMMAND stands for R77's illegal operand alone. -/
theorem errorOf_eq_badCommand_iff (i : Instr) (s : State) : errorOf i s = .badCommand ↔ i.wf = false := by
  cases i with
  | reqStart cmd => simp [errorOf, Instr.wf]
  | reqPut | reqSeal | rxStart | rxPut | validate =>
    simp only [errorOf, Instr.wf]
    split_ifs <;> simp
  | nop | crcClr | crcNib | crcByte | srst | decode | errClr => simp [errorOf, Instr.wf]

/-- Settles O48: an operation ends in BAD_COMMAND exactly when the table of R182 says so. -/
theorem badCommandExactlyForIllFormedOperands : Obligations.BadCommandExactlyForIllFormedOperands := by
  intro i s
  rw [← errorOf_eq_badCommand_iff i s]
  constructor
  · rintro ⟨t, hexec, hbad⟩
    rwa [← opErr_of_exec hexec]
  · intro hbad
    obtain ⟨t, hexec⟩ := exec_completes i s
    exact ⟨t, hexec, (opErr_of_exec hexec).trans hbad⟩

/-- Two operations with the same outcome in the table of R182 and the same writes differ in ERRWORD alone, which only
an error writes (R183). -/
theorem exec_differs_in_errWord {i j : Instr} {s t u : State} (herr : errorOf i s = errorOf j s)
    (hwrites : written i s = written j s) (ht : exec i s = .next t) (hu : exec j s = .next u) :
    (t.block.opErr = .ok → t = u) ∧ t = { u with block := { u.block with errWord := t.block.errWord } } := by
  obtain ⟨hi, rfl⟩ | ⟨hi, rfl⟩ := exec_cases ht <;> obtain ⟨hj, rfl⟩ | ⟨hj, rfl⟩ := exec_cases hu
  · exact ⟨fun hok => absurd hok hi, by rw [herr]; rfl⟩
  · exact absurd (herr.trans hj) hi
  · exact absurd (herr.symm.trans hi) hj
  · rw [hwrites]
    exact ⟨fun _ => rfl, rfl⟩

/-- CRC_NIB sees the low nibble of its operand alone (R74, R106). -/
theorem exec_crcNib_congr {a b : Byte} (h : nibbleOperand a = nibbleOperand b) (s : State) :
    exec (.crcNib a) s = exec (.crcNib b) s := by
  show execCrcNib a s = execCrcNib b s
  rw [execCrcNib, execCrcNib, h]

/-- Settles O50: where an operation without an operand can take an error, neither the error nor the writes depend on
IMM8. -/
theorem ignoredOperandBitsMakeNoDifference : Obligations.IgnoredOperandBitsMakeNoDifference :=
  fun s _ _ => ⟨rfl, rfl, rfl, rfl, rfl, fun hnibble => exec_crcNib_congr hnibble s,
    fun _ _ => exec_differs_in_errWord rfl rfl, fun _ _ => exec_differs_in_errWord rfl rfl⟩

end Sys2Proof.Machine
end

section
/-! PROOFS. The statements of 40_crc.md: the checksum operations (R105 to R107), the bitwise CRC behind the table
(R104), the laws of the checksum (R108) and framing's independence of the accumulator (R109). -/

namespace Sys2Proof.Machine

/-! ## The nibble step -/

/-- Bits [15:12] of the accumulator, which the next nibble meets (R101). -/
def topNibble (a : Word) : Nibble := a.extractLsb' 12 4

/-- R101 by the accumulator's top nibble: what is shifted out selects the table's entry together with the operand. -/
theorem nibStep_eq (a : Word) (n : Nibble) : nibStep a n = tableAt (topNibble a ^^^ n) ^^^ a <<< 4 := by
  have hindex : (a >>> 12 ^^^ n.setWidth 16).extractLsb' 0 4 = topNibble a ^^^ n := by
    ext i hi
    simp [topNibble, hi, show i < 16 by omega]
  rw [nibStep, hindex]

/-- The index of R101 as a mask: the low four bits. -/
theorem extractLsb'_low_eq_masked (x : Word) : x.extractLsb' 0 4 = (x &&& 0xF).setWidth 4 := by
  ext i hi
  interval_cases i <;> simp

/-! CRC_BYTE2's two operands hold the byte's two nibbles where CRC_NIB looks (R81, R74). -/

theorem nibbleOperand_shiftRight (b : Byte) : nibbleOperand (b >>> 4) = hiNibble b := by
  revert b; decide

theorem nibbleOperand_and (b : Byte) : nibbleOperand (b &&& 0x0F) = loNibble b := by
  revert b; decide

/-! ## The checksum operations -/

/-- Settles O19: each operation's arm is its writes with OPERR cleared, and R101's index is a mask. -/
theorem checksumOperationResults : Obligations.ChecksumOperationResults := by
  intro s imm nib
  have hnib : nibStep = nib := by
    funext a n
    show tableAt ((a >>> 12 ^^^ n.setWidth 16).extractLsb' 0 4) ^^^ a <<< 4 = _
    rw [extractLsb'_low_eq_masked]
  rw [← hnib]
  exact ⟨decode_encode (.crcClr imm), rfl, decode_encode (.crcNib imm), rfl, decode_encode (.crcByte imm), rfl⟩

/-- Settles O20: a byte step is two nibble steps, and CRC_BYTE2's operands are the two nibbles. -/
theorem twoNibblesMakeOneByte : Obligations.TwoNibblesMakeOneByte := by
  intro s b
  refine ⟨_, _, rfl, rfl, ?_⟩
  rw [nibbleOperand_shiftRight, nibbleOperand_and]
  rfl

/-! ## The bitwise CRC -/

/-- Four bits, most significant first. -/
def nibbleBits (n : Nibble) : List Bool := [n[3], n[2], n[1], n[0]]

@[simp] theorem length_nibbleBits (n : Nibble) : (nibbleBits n).length = 4 := rfl

/-- A byte's bits are its nibbles' bits, the high one first. -/
theorem bitsOf_eq_nibbleBits (b : Byte) : bitsOf b = nibbleBits (hiNibble b) ++ nibbleBits (loNibble b) := by
  revert b; decide

/-- A word with its top bit clear does not reach the choice of the polynomial: it is only shifted. -/
theorem crcBit_xor (a : Word) {x : Word} (hx : x.msb = false) (bit : Bool) :
    crcBit (a ^^^ x) bit = crcBit a bit ^^^ x <<< 1 := by
  simp only [crcBit, BitVec.msb_xor, hx, Bool.xor_false, BitVec.shiftLeft_xor_distrib]
  ac_rfl

/-- The same over several bits, for a word of which none is shifted out. -/
theorem foldl_crcBit_xor (bits : List Bool) (a x : Word) (hx : x.toNat * 2 ^ bits.length < 2 ^ 16) :
    bits.foldl crcBit (a ^^^ x) = bits.foldl crcBit a ^^^ x <<< bits.length := by
  induction bits generalizing a x with
  | nil => simp
  | cons bit bits ih =>
    rw [List.length_cons, pow_succ', ← mul_assoc] at hx
    have hsmall : x.toNat * 2 < 2 ^ 16 := lt_of_le_of_lt (Nat.le_mul_of_pos_right _ (by positivity)) hx
    have hmsb : x.msb = false := BitVec.msb_eq_false_iff_two_mul_lt.mpr (by omega)
    have hdouble : (x <<< 1).toNat = x.toNat * 2 := by
      rw [BitVec.toNat_shiftLeft, Nat.shiftLeft_eq, pow_one, Nat.mod_eq_of_lt hsmall]
    rw [List.foldl_cons, crcBit_xor a hmsb, ih _ _ (by rwa [hdouble]), List.foldl_cons, List.length_cons,
      ← BitVec.shiftLeft_add, Nat.add_comm]

/-- TABLE is the bitwise CRC of a nibble on an accumulator with nothing below its top nibble (R100, R104). -/
theorem foldl_crcBit_top :
    ∀ t n : Nibble, (nibbleBits n).foldl crcBit (t.setWidth 16 <<< 12) = tableAt (t ^^^ n) := by
  decide

/-- The accumulator by its top nibble and the twelve bits below it. -/
theorem topNibble_xor_low (a : Word) : ((topNibble a).setWidth 16 <<< 12) ^^^ (a.setWidth 12).setWidth 16 = a := by
  ext i hi
  by_cases hlow : i < 12
  · simp [hlow, BitVec.getLsbD_eq_getElem hi]
  · simp [topNibble, hlow, show i - 12 < 4 by omega, show 12 + (i - 12) = i by omega, BitVec.getLsbD_eq_getElem hi]

/-- One nibble step is four bit steps (R101, R104). -/
theorem foldl_crcBit_nibbleBits (a : Word) (n : Nibble) : (nibbleBits n).foldl crcBit a = nibStep a n := by
  have hlow : ((a.setWidth 12).setWidth 16).toNat * 2 ^ 4 < 2 ^ 16 := by
    rw [BitVec.toNat_setWidth_of_le (by omega)]
    omega
  have hshift : (a.setWidth 12).setWidth 16 <<< 4 = a <<< 4 := by
    ext i hi
    simp [show i - 4 < 12 by omega, BitVec.getLsbD_eq_getElem (show i - 4 < 16 by omega)]
  calc (nibbleBits n).foldl crcBit a
      = (nibbleBits n).foldl crcBit (((topNibble a).setWidth 16 <<< 12) ^^^ (a.setWidth 12).setWidth 16) := by
        rw [topNibble_xor_low]
    _ = tableAt (topNibble a ^^^ n) ^^^ a <<< 4 := by
        rw [foldl_crcBit_xor _ _ _ hlow, foldl_crcBit_top, length_nibbleBits, hshift]
    _ = nibStep a n := (nibStep_eq a n).symm

/-- One byte step is eight bit steps (R102, R104). -/
theorem foldl_crcBit_bitsOf (a : Word) (b : Byte) : (bitsOf b).foldl crcBit a = byteStep a b := by
  rw [bitsOf_eq_nibbleBits, List.foldl_append, foldl_crcBit_nibbleBits, foldl_crcBit_nibbleBits, byteStep]

/-- Law 1 of R108: the checksum may be fed in pieces. -/
theorem checksum_append (L M : List Byte) : checksum (L ++ M) = M.foldl byteStep (checksum L) :=
  foldl_byteStep_append L M 0x0000

/-- The check value of R104, the digits in two pieces. -/
theorem checksum_digits : checksum [0x31, 0x32, 0x33, 0x34, 0x35, 0x36, 0x37, 0x38, 0x39] = 0x31C3 := by
  have hfirst : checksum [0x31, 0x32, 0x33, 0x34] = 0xD789 := by decide
  have hrest : [0x35, 0x36, 0x37, 0x38, 0x39].foldl byteStep 0xD789 = 0x31C3 := by decide
  rw [← hrest, ← hfirst]
  exact checksum_append [0x31, 0x32, 0x33, 0x34] [0x35, 0x36, 0x37, 0x38, 0x39]

/-- Settles O21: the bits are fed byte by byte, and eight bit steps are one byte step. -/
theorem checksumIsBitwiseCrc : Obligations.ChecksumIsBitwiseCrc := by
  refine ⟨fun L => ?_, checksum_digits⟩
  simp only [bitwiseChecksum, List.foldl_flatMap, foldl_crcBit_bitsOf, checksum]

/-! ## The laws of the checksum -/

/-- Feeding the accumulator its own top nibble cancels the table's entry: the accumulator is only shifted. -/
theorem nibStep_topNibble (a : Word) : nibStep a (topNibble a) = a <<< 4 := by
  rw [nibStep_eq, BitVec.xor_self]
  exact BitVec.zero_xor

/-- Feeding the accumulator its own high byte only shifts it. -/
theorem byteStep_hiByte (a : Word) : byteStep a (hiByte a) = a <<< 8 := by
  have hhi : hiNibble (hiByte a) = topNibble a := by
    ext i hi
    simp [hiNibble, hiByte, topNibble, show 4 + i < 8 by omega, show 8 + (4 + i) = 12 + i by omega]
  have hlo : loNibble (hiByte a) = topNibble (a <<< 4) := by
    ext i hi
    simp [loNibble, hiByte, topNibble, show i < 8 by omega, show 12 + i < 16 by omega, show 4 ≤ 12 + i by omega,
      show 12 + i - 4 = 8 + i by omega, BitVec.getLsbD_eq_getElem (show 8 + i < 16 by omega)]
  rw [byteStep, hhi, nibStep_topNibble, hlo, nibStep_topNibble, ← BitVec.shiftLeft_add]

/-- The residue of R108: the accumulator's own two bytes shift all of it out. -/
theorem byteStep_hiByte_loByte (a : Word) : byteStep (byteStep a (hiByte a)) (loByte a) = 0x0000 := by
  have hlo : loByte a = hiByte (a <<< 8) := by
    ext i hi
    simp [loByte, hiByte, show 8 + i < 16 by omega, BitVec.getLsbD_eq_getElem (show i < 16 by omega)]
  rw [byteStep_hiByte, hlo, byteStep_hiByte, ← BitVec.shiftLeft_add]
  exact BitVec.shiftLeft_eq_zero le_rfl

/-- Zero bytes leave a zero accumulator at zero. -/
theorem checksum_replicate_zero (n : Nat) : checksum (List.replicate n 0x00) = 0x0000 := by
  induction n with
  | zero => rfl
  | succ n ih =>
    have hzero : byteStep 0x0000 0x00 = 0x0000 := by decide
    rw [List.replicate_succ, checksum, List.foldl_cons, hzero, ← checksum, ih]

/-- Settles O22: pieces are a fold's own law, zero bytes leave a zero accumulator alone, and an accumulator's own bytes
shift it out. -/
theorem checksumLaws : Obligations.ChecksumLaws := by
  refine ⟨checksum_append, fun n L => ?_, fun L => ?_⟩
  · rw [checksum_append, checksum_replicate_zero, checksum]
  · rw [checksum_append]
    exact byteStep_hiByte_loByte (checksum L)

/-! ## Framing and the accumulator -/

/-- The results for which VALIDATE computes a checksum (R144). -/
theorem checksumComputed_iff (r : XState) :
    checksumComputed r = true ↔ r = .responseValid ∨ r = .checksumMismatch := by
  simp [checksumComputed]

/-- An operation that takes no error ends in its writes with OPERR cleared (R184). -/
theorem exec_of_ok {i : Instr} {s : State} (hok : errorOf i s = .ok) :
    exec i s = .next (s.setBlock { written i s with opErr := .ok }) := by
  rw [exec_eq, if_pos hok, succeed]

/-- An operation that takes an error writes the error record alone (R183). -/
theorem exec_of_error {i : Instr} {s : State} (herr : errorOf i s ≠ .ok) :
    exec i s = .next (s.setBlock { s.block with opErr := errorOf i s, errSeen := true, errWord := encode i }) := by
  rw [exec_eq, if_neg herr, opError]

/-- VALIDATE where it computes a checksum: CRC_ACC is overwritten (R144). -/
theorem validated_crcAcc_of_computed {minLen : Byte} {b : Block} (c : Word)
    (h : checksumComputed (verdict b.rx minLen b.lastCmd) = true) :
    validated minLen { b with crcAcc := c } = validated minLen b := by
  simp [validated, h]

/-- VALIDATE where it computes none: CRC_ACC stays. -/
theorem validated_crcAcc_of_not_computed {minLen : Byte} {b : Block} (c : Word)
    (h : checksumComputed (verdict b.rx minLen b.lastCmd) = false) :
    (validated minLen b).crcAcc = b.crcAcc ∧
      validated minLen { b with crcAcc := c } = { validated minLen b with crcAcc := c } := by
  simp [validated, h]

/-- Settles O23: CRC_ACC is in no check of the two operations, so both runs take the same branch; REQ_SEAL overwrites
it, and VALIDATE overwrites it or leaves it alone. -/
theorem framingIgnoresAccumulator : Obligations.FramingIgnoresAccumulator := by
  intro s t c imm s'
  constructor
  · intro h
    obtain ⟨herr, rfl⟩ | ⟨hok, rfl⟩ := exec_cases h
    · exact .inr ⟨exec_of_error (s := s') herr, herr⟩
    · exact .inl ⟨exec_of_ok (s := s') hok, rfl⟩
  · intro h
    obtain ⟨herr, rfl⟩ | ⟨hok, rfl⟩ := exec_cases h
    · exact .inr ⟨exec_of_error (s := s') herr, rfl⟩
    · have hexec : exec (.validate imm) s' =
          .next (s.setBlock { validated imm { s.block with crcAcc := c } with opErr := .ok }) :=
        exec_of_ok (s := s') hok
      cases hcomputed : checksumComputed (verdict s.block.rx imm s.block.lastCmd) with
      | true =>
        rw [validated_crcAcc_of_computed c hcomputed] at hexec
        exact .inl ⟨hexec, rfl, (checksumComputed_iff _).mp hcomputed⟩
      | false =>
        obtain ⟨hkept, hset⟩ := validated_crcAcc_of_not_computed c hcomputed
        rw [hset] at hexec
        exact .inr ⟨hexec, hkept⟩

end Sys2Proof.Machine
end

section
/-! PROOFS. The statements of 41_framer.md: what the operations of the encode direction do (R123 to R125), stuffing
by position and its length (R121, R126, R127), and what the escapes of a sealed request are (R122, R128). -/

namespace Sys2Proof.Machine

/-! ## The three operations -/

/-- An operation to which the table of R182 gives an error code writes that code and the rest of the error record
(R183). -/
theorem exec_of_errorOf_eq {i : Instr} {s : State} {code : OpErr} (hcode : errorOf i s = code) (herr : code ≠ .ok) :
    exec i s = .next (s.setBlock { s.block with opErr := code, errSeen := true, errWord := encode i }) := by
  subst hcode
  exact exec_of_error herr

/-- Settles O24: the operand's range decides, and the values outside it are the illegal operands of R77. -/
theorem reqStartResult : Obligations.ReqStartResult := by
  intro s cmd
  refine ⟨decode_encode (.reqStart cmd), fun hcmd => exec_of_ok (errorOf_reqStart.mpr hcmd), fun hcmd => ?_⟩
  have hbad : errorOf (.reqStart cmd) s = .badCommand := if_neg (by omega)
  exact exec_of_errorOf_eq hbad (by decide)

/-- Settles O25: SEQUENCE is checked first, then the room for the byte and the three that sealing adds (R185). -/
theorem reqPutResult : Obligations.ReqPutResult := by
  intro s imm
  refine ⟨decode_encode (.reqPut imm), fun hopen hroom => exec_of_ok (errorOf_reqPut.mpr ⟨hopen, hroom⟩),
    fun hopen hfull => ?_, fun hclosed => ?_⟩
  · have hoverflow : errorOf (.reqPut imm) s = .overflow := by simp [errorOf, hopen, hfull]
    exact exec_of_errorOf_eq hoverflow (by decide)
  · have hsequence : errorOf (.reqPut imm) s = .sequence := if_pos hclosed
    exact exec_of_errorOf_eq hsequence (by decide)

/-- Settles O26: the sequence the statement spells out is the frame of R120, and the errors are checked in the order of
R185. -/
theorem reqSealResult : Obligations.ReqSealResult := by
  intro s imm b0 cmd P c U
  have hU : U = frame cmd P := rfl
  rw [hU]
  refine ⟨decode_encode (.reqSeal imm), fun hopen hreq hfits => exec_reqSeal_fits imm hopen hreq hfits,
    fun hopen hreq hfull => ?_, fun hclosed => ?_⟩
  · have hoverflow : errorOf (.reqSeal imm) s = .overflow := by
      simp [errorOf, ← sealedFrame_eq_drop, sealedFrame_eq hreq, hopen, hfull]
    exact exec_of_errorOf_eq hoverflow (by decide)
  · have hsequence : errorOf (.reqSeal imm) s = .sequence := if_pos hclosed
    exact exec_of_errorOf_eq hsequence (by decide)

/-! ## Stuffing by position and its length -/

/-- Settles O27: the bytes between the ends are escaped exactly where they are control values. -/
theorem stuffingEscapesInteriorControls : Obligations.StuffingEscapesInteriorControls := by
  refine ⟨stuff_nil, fun a => stuff_cons a [], fun a z M => ?_⟩
  simp only [stuff_snoc, isControl_iff, escapeMarker]

/-- The interior of a sequence, by its indices (R126). -/
theorem slice_interior (a : Byte) (M : List Byte) (z : Byte) :
    slice (a :: M ++ [z]) 1 ((a :: M ++ [z]).length - 2) = M := by
  simp [slice]

/-- Settles O28: a sequence of at most one byte has no interior, and a longer one is its two ends and its interior. -/
theorem stuffedLength : Obligations.StuffedLength := by
  refine ⟨fun U => ?_, fun U => length_stuff_bounds⟩
  obtain rfl | ⟨a, rfl⟩ | ⟨a, M, z, rfl⟩ := snoc_cases U
  · rfl
  · rfl
  · rw [length_stuff_snoc, slice_interior]
    simp

/-! ## The escapes of a stuffed sequence -/

@[simp] theorem byteAt_cons_zero (b : Byte) (L : List Byte) : byteAt (b :: L) 0 = b := rfl

@[simp] theorem byteAt_cons_succ (b : Byte) (L : List Byte) (k : Nat) : byteAt (b :: L) (k + 1) = byteAt L k := rfl

/-- A pair is one escape, and the scan goes on after it (R140). -/
theorem escapes_pair {c : Byte} (hc : isControl c = true) (L : List Byte) :
    escapes (escapeMarker :: c :: L) = true :: false :: escapes L :=
  if_pos ⟨rfl, hc⟩

/-- A byte that is no escape-marker is no escape, and the scan goes on after it (R140). -/
theorem escapes_keep {b : Byte} (hb : b ≠ escapeMarker) (L : List Byte) : escapes (b :: L) = false :: escapes L := by
  cases L with
  | nil => rfl
  | cons c L => exact if_neg fun h => hb h.1

/-- R128 without the first byte: every 0x01 or 0x04 before the last byte stands right after a 0x10 that the scan drops
as an escape. -/
def MarkersEscaped (L : List Byte) : Prop :=
  ∀ k, k + 1 < L.length → byteAt L k = 0x01 ∨ byteAt L k = 0x04 →
    ∃ j, k = j + 1 ∧ byteAt L j = 0x10 ∧ escapeAt L j = true

/-- An escape pair in front keeps it: the byte escaped is the one that stands after the pair's 0x10. -/
theorem markersEscaped_pair {c : Byte} {L : List Byte} (hc : isControl c = true) (h : MarkersEscaped L) :
    MarkersEscaped (escapeMarker :: c :: L) := by
  intro k hk hmarker
  match k with
  | 0 => exact absurd hmarker (by simp [escapeMarker])
  | 1 => exact ⟨0, rfl, rfl, by rw [escapeAt, escapes_pair hc, List.getD_cons_zero]⟩
  | k + 2 =>
    obtain ⟨j, rfl, hbyte, hesc⟩ := h k (Nat.lt_of_add_lt_add_right (n := 2) hk) hmarker
    exact ⟨j + 2, rfl, hbyte, by rwa [escapeAt, escapes_pair hc]⟩

/-- A byte that is no control value in front keeps it. -/
theorem markersEscaped_cons {b : Byte} {L : List Byte} (hb : isControl b = false) (h : MarkersEscaped L) :
    MarkersEscaped (b :: L) := by
  obtain ⟨hbegin, hend, hesc⟩ : b ≠ 0x01 ∧ b ≠ 0x04 ∧ b ≠ 0x10 := by
    simpa [isControl_iff] using (Bool.eq_false_iff.mp hb)
  intro k hk hmarker
  match k with
  | 0 => exact absurd hmarker (not_or.mpr ⟨hbegin, hend⟩)
  | k + 1 =>
    obtain ⟨j, rfl, hbyte, hescape⟩ := h k (by simpa using hk) hmarker
    exact ⟨j + 1, rfl, hbyte, by rwa [escapeAt, escapes_keep hesc]⟩

/-- What stuffing makes of the bytes after the first has it, byte by byte. -/
theorem markersEscaped_stuffTail : ∀ L : List Byte, MarkersEscaped (stuffTail L)
  | [] => fun k hk => absurd hk (by simp [stuffTail])
  | [z] => fun k hk => absurd hk (by simp [stuffTail])
  | b :: c :: rest => by
    have ih := markersEscaped_stuffTail (c :: rest)
    cases hb : isControl b with
    | true => simpa [stuffTail, hb] using markersEscaped_pair hb ih
    | false => simpa [stuffTail, hb] using markersEscaped_cons hb ih

/-! ## Sealed requests -/

/-- TX after a REQ_SEAL that succeeds (R125). -/
theorem tx_of_reqSeal {s t : State} {imm : Byte} (h : exec (.reqSeal imm) s = .next t) (hok : t.block.opErr = .ok) :
    t.block.tx = stuff (sealedFrame s.block) := by
  rw [opErr_of_exec h] at hok
  rw [exec_of_ok hok] at h
  cases h
  rfl

/-- A stuffed frame ends in the end-marker. -/
theorem getLast?_stuff_frame (cmd : Byte) (P : List Byte) : (stuff (frame cmd P)).getLast? = some endMarker := by
  rw [frame_snoc, stuff_snoc, List.getLast?_concat]

/-- R128 of every stuffed frame: behind the begin-marker, which is no escape, stands what stuffing makes of the rest. -/
theorem stuff_frame_eq_cons (cmd : Byte) (P : List Byte) :
    ∃ L, stuff (frame cmd P) = beginMarker :: L ∧ MarkersEscaped L :=
  ⟨_, stuff_cons _ _, markersEscaped_stuffTail _⟩

/-- Settles O30: the begin-marker moves every index of what stands behind it by one. -/
theorem sealedFrameDelimiters : Obligations.SealedFrameDelimiters := by
  intro s t imm h hok
  have hlast := getLast?_stuff_frame (openCmd s.block) (openPayload s.block)
  obtain ⟨L, hL, hescaped⟩ := stuff_frame_eq_cons (openCmd s.block) (openPayload s.block)
  rw [hL] at hlast
  rw [tx_of_reqSeal h hok, sealedFrame, hL]
  refine ⟨rfl, hlast, fun k hpos hk hmarker => ?_⟩
  obtain ⟨k, rfl⟩ := Nat.exists_eq_add_one.mpr hpos
  obtain ⟨j, rfl, hbyte, hescape⟩ := hescaped k (by simpa using hk) hmarker
  exact ⟨hbyte, by rwa [escapeAt, escapes_keep (by decide)]⟩

/-- How a stuffed frame starts: the command byte is the first candidate for an escape (R122). -/
theorem stuff_frame_command (cmd : Byte) (P : List Byte) :
    ∃ L, stuff (frame cmd P) = beginMarker :: (if isControl cmd then [escapeMarker, cmd] else [cmd]) ++ L := by
  rw [frame_snoc, stuff_snoc]
  simp only [List.cons_append, List.flatMap_cons, List.append_assoc]
  exact ⟨_, rfl⟩

/-- Settles O31: of the five command codes two are control values. -/
theorem commandByteEscaped : Obligations.CommandByteEscaped := by
  intro s t imm b0 cmd P hreq h hok
  obtain ⟨L, hL⟩ := stuff_frame_command cmd P
  rw [tx_of_reqSeal h hok, sealedFrame_eq hreq, hL]
  constructor
  · rintro (rfl | rfl) <;> exact ⟨rfl, rfl⟩
  · rintro (rfl | rfl | rfl) <;> rfl

end Sys2Proof.Machine
end

section
/-! PROOFS. The statements of 42_receiver.md: the scan that removes the stuffing (R140, R149 to R151), what the
operations of the decode direction do (R141 to R143), and what VALIDATE answers (R144 to R148, R152). -/

namespace Sys2Proof.Machine

/-! ## Removing the stuffing of a stuffed sequence -/

/-- The bytes after the first: each escape that stuffing puts in is a pair that the scan collapses. -/
theorem unstuff_stuffTail : ∀ L : List Byte, unstuff (stuffTail L) = L
  | [] => rfl
  | [_] => rfl
  | b :: c :: rest => by
    have ih := unstuff_stuffTail (c :: rest)
    cases hb : isControl b with
    | true => simp [stuffTail, hb, unstuff_pair hb, ih]
    | false => simp [stuffTail, hb, unstuff_keep_of_not_control hb, ih]

/-- R149: a first byte that is no escape-marker starts no pair. -/
theorem unstuff_stuff {U : List Byte} (h : U.length ≤ 1 ∨ byteAt U 0 ≠ 0x10) : unstuff (stuff U) = U := by
  match U, h with
  | [], _ => rfl
  | [a], _ => rw [stuff_cons]; rfl
  | a :: c :: L, .inl hlen => simp at hlen
  | a :: c :: L, .inr ha => rw [stuff_cons, unstuff_keep (show a ≠ escapeMarker from ha), unstuff_stuffTail]

/-- R149 for frames, which start with the begin-marker. -/
theorem unstuff_stuff_frame (cmd : Byte) (P : List Byte) : unstuff (stuff (frame cmd P)) = frame cmd P :=
  unstuff_stuff (.inr (show beginMarker ≠ 0x10 by decide))

/-- Settles O33: with an escape-marker in front the pair [0x10, 0x04] is not escaped, and the scan collapses it. -/
theorem unstuffInvertsStuff : Obligations.UnstuffInvertsStuff :=
  ⟨fun _ => unstuff_stuff, unstuff_stuff_frame, by decide⟩

/-! ## The scan by index -/

/-- An escape-marker right before a control value: what the scan of R140 looks for at index k. -/
abbrev PairAt (R : List Byte) (k : Nat) : Prop :=
  k + 1 < R.length ∧ byteAt R k = escapeMarker ∧ isControl (byteAt R (k + 1)) = true

/-- A sequence from index k on. -/
theorem drop_eq_byteAt_cons {R : List Byte} {k : Nat} (hk : k < R.length) :
    R.drop k = byteAt R k :: R.drop (k + 1) := by
  rw [List.drop_eq_getElem_cons hk, byteAt, List.getD_eq_getElem _ _ hk]

/-- The turn of R140's loop that collapses a pair. -/
theorem unstuff_drop_of_pair {R : List Byte} {k : Nat} (h : PairAt R k) :
    unstuff (R.drop k) = byteAt R (k + 1) :: unstuff (R.drop (k + 2)) := by
  obtain ⟨hk, hesc, hcontrol⟩ := h
  rw [drop_eq_byteAt_cons (by omega), drop_eq_byteAt_cons hk, hesc, unstuff_pair hcontrol]

/-- The turn of R140's loop that keeps a byte. -/
theorem unstuff_drop_of_not_pair {R : List Byte} {k : Nat} (hk : k < R.length) (h : ¬ PairAt R k) :
    unstuff (R.drop k) = byteAt R k :: unstuff (R.drop (k + 1)) := by
  rw [drop_eq_byteAt_cons hk]
  by_cases hnext : k + 1 < R.length
  · rw [drop_eq_byteAt_cons hnext, unstuff, if_neg fun hpair => h ⟨hnext, hpair⟩]
  · rw [List.drop_of_length_le (by omega)]
    rfl

/-- The loop's test is the pair at its index. -/
theorem pairAt_iff (R : List Byte) (k : Nat) :
    PairAt R k ↔ byteAt R k = 0x10 ∧ k + 1 < R.length ∧
      (byteAt R (k + 1) = 0x01 ∨ byteAt R (k + 1) = 0x04 ∨ byteAt R (k + 1) = 0x10) := by
  rw [PairAt, isControl_iff, and_left_comm]
  rfl

/-- The loop's invariant: what is left of it appends the decoded form of the bytes from index k on. -/
theorem scanLoop_eq (R : List Byte) (fuel : Nat) (out : List Byte) (k : Nat) (hfuel : R.length ≤ k + fuel) :
    scanLoop R fuel out k = out ++ unstuff (R.drop k) := by
  induction fuel generalizing out k with
  | zero => rw [List.drop_of_length_le (show R.length ≤ k from hfuel), unstuff, List.append_nil, scanLoop]
  | succ fuel ih =>
    simp only [scanLoop, ← pairAt_iff]
    split_ifs with hk hpair
    · rw [ih _ _ (by omega), unstuff_drop_of_pair hpair, List.append_assoc, List.singleton_append]
    · rw [ih _ _ (by omega), unstuff_drop_of_not_pair hk hpair, List.append_assoc, List.singleton_append]
    · rw [List.drop_of_length_le (by omega), unstuff, List.append_nil]

/-- Settles O32. -/
theorem unstuffIsOneScan : Obligations.UnstuffIsOneScan := by
  intro R
  rw [scanLoop_eq R R.length [] 0 (by omega), List.nil_append, List.drop_zero]

/-! ## Where the scan changes nothing -/

/-- R151: a pair in the sequence makes the decoded form shorter, and where none is every byte is kept. -/
theorem unstuff_eq_self_iff : ∀ U : List Byte, unstuff U = U ↔ ∀ k, ¬ PairAt U k
  | [] => by simp [unstuff]
  | [_] => by simp [unstuff]
  | b :: c :: rest => by
    by_cases hpair : b = escapeMarker ∧ isControl c = true
    · have hshorter : (unstuff (b :: c :: rest)).length < (b :: c :: rest).length := by
        rw [hpair.1, unstuff_pair hpair.2]
        simpa using Nat.lt_succ_of_le (length_unstuff_le rest)
      have hfirst : PairAt (b :: c :: rest) 0 := ⟨by simp, hpair⟩
      exact ⟨fun hsame => absurd (congrArg List.length hsame) hshorter.ne, fun hnone => absurd hfirst (hnone 0)⟩
    · have htail : ∀ k, PairAt (b :: c :: rest) (k + 1) ↔ PairAt (c :: rest) k := fun k => by simp [PairAt]
      rw [unstuff, if_neg hpair, List.cons_inj_right, unstuff_eq_self_iff (c :: rest)]
      refine ⟨fun hnone k => ?_, fun hnone k => (htail k).not.mp (hnone (k + 1))⟩
      match k with
      | 0 => exact fun hfirst => hpair hfirst.2
      | k + 1 => exact (htail k).not.mpr (hnone k)

/-- Settles O35: the statement's condition says that no pair stands in the sequence. -/
theorem unstuffFixedPoints : Obligations.UnstuffFixedPoints := by
  refine ⟨fun U => (unstuff_eq_self_iff U).trans (forall_congr' fun k => ?_), by decide⟩
  simp only [PairAt, not_and, Bool.not_eq_true]
  rfl

/-! ## The escapes at the ends of a stuffed frame -/

/-- The scan's marks on what stuffing emits for a byte that is not the last: an escape it put in, and the byte. -/
theorem escapes_stuffTail_cons (b : Byte) {L : List Byte} (hL : L ≠ []) :
    escapes (stuffTail (b :: L)) = (if isControl b then [true, false] else [false]) ++ escapes (stuffTail L) := by
  obtain ⟨c, rest, rfl⟩ := List.exists_cons_of_ne_nil hL
  cases hb : isControl b with
  | true => simp [stuffTail, hb, escapes_pair hb]
  | false =>
    have hne : b ≠ escapeMarker := fun h => by simp [h, isControl] at hb
    simp [stuffTail, hb, escapes_keep hne]

/-- Neither of the last two bytes of a stuffed sequence is an escape. -/
theorem escapes_stuffTail_snoc (M : List Byte) (y z : Byte) :
    ∃ A, escapes (stuffTail (M ++ [y, z])) = A ++ [false, false] := by
  induction M with
  | nil =>
    rw [List.nil_append, escapes_stuffTail_cons y (by simp)]
    cases isControl y with
    | true => exact ⟨[true], rfl⟩
    | false => exact ⟨[], rfl⟩
  | cons b M ih =>
    obtain ⟨A, hA⟩ := ih
    rw [List.cons_append, escapes_stuffTail_cons b (by simp), hA, ← List.append_assoc]
    exact ⟨_, rfl⟩

/-- The scan's marks on a stuffed frame: the first and the last two are no escapes (R150). -/
theorem escapes_stuff_frame (cmd : Byte) (P : List Byte) :
    ∃ A, escapes (stuff (frame cmd P)) = false :: A ++ [false, false] := by
  have hframe : frame cmd P = beginMarker ::
      ((cmd :: P ++ [loByte (checksum (cmd :: P))]) ++ [hiByte (checksum (cmd :: P)), endMarker]) := by simp [frame]
  obtain ⟨A, hA⟩ := escapes_stuffTail_snoc (cmd :: P ++ [loByte (checksum (cmd :: P))])
    (hiByte (checksum (cmd :: P))) endMarker
  exact ⟨A, by rw [hframe, stuff_cons, escapes_keep (by decide), hA, List.cons_append]⟩

/-- Settles O34. -/
theorem noPairAtTheDelimiters : Obligations.NoPairAtTheDelimiters := by
  intro cmd P T
  obtain ⟨A, hA⟩ := escapes_stuff_frame cmd P
  have hT : escapes T = false :: A ++ [false, false] := hA
  have hlen : T.length = A.length + 3 := by simp [← length_escapes T, hT]
  simp [escapeAt, hT, hlen]

/-! ## RX_START, RX_PUT and DECODE -/

/-- Settles O36: the exchange state decides. -/
theorem rxStartResult : Obligations.RxStartResult := by
  intro s imm
  refine ⟨decode_encode (.rxStart imm), fun hx => exec_of_ok (errorOf_rxStart.mpr hx), fun hx => ?_⟩
  have hsequence : errorOf (.rxStart imm) s = .sequence := if_neg hx
  exact exec_of_errorOf_eq hsequence (by decide)

/-- What RX_PUT writes to RX_EOF (R142). -/
theorem rxEof_eq_or (imm : Byte) (old : Bool) : (if imm = endMarker then true else old) = (old || imm == 0x04) := by
  cases himm : imm == 0x04 with
  | true => rw [if_pos (show imm = endMarker from eq_of_beq himm), Bool.or_true]
  | false => rw [if_neg (show imm ≠ endMarker from ne_of_beq_false himm), Bool.or_false]

/-- RX_PUT in AwaitingResponse: the byte is appended while there is room and dropped when RX is full (R142). -/
theorem exec_rxPut {s : State} (imm : Byte) (hx : s.block.xstate = .awaitingResponse) :
    exec (.rxPut imm) s = .next (s.setBlock
      { s.block with
        rx := if s.block.rx.length < s.cfg.bufCap then s.block.rx ++ [imm] else s.block.rx
        rxOvf := if s.block.rx.length < s.cfg.bufCap then s.block.rxOvf else true
        rxEof := s.block.rxEof || imm == 0x04
        opErr := .ok }) := by
  rw [exec_of_ok (errorOf_rxPut.mpr hx), written, rxEof_eq_or]

/-- Settles O37. -/
theorem rxPutResult : Obligations.RxPutResult := by
  intro s imm
  refine ⟨decode_encode (.rxPut imm), fun hx hroom => ?_, fun hx hfull => ?_, fun hx => ?_⟩
  · rw [exec_rxPut imm hx, if_pos hroom, if_pos hroom]
    rfl
  · rw [exec_rxPut imm hx, if_neg (by omega), if_neg (by omega)]
    rfl
  · have hsequence : errorOf (.rxPut imm) s = .sequence := if_neg hx
    exact exec_of_errorOf_eq hsequence (by decide)

/-- Settles O39. -/
theorem decodeOperationResult : Obligations.DecodeOperationResult :=
  fun _ imm _ => ⟨decode_encode (.decode imm), _, rfl, rfl, rfl⟩

/-! ## A sequence of RX_PUTs -/

/-- The state elements after a sequence of bytes has been handed to RX_PUT in AwaitingResponse. -/
def received (cap : Nat) (b : Block) (bs : List Byte) : Block :=
  { b with
    rx := (b.rx ++ bs).take cap
    rxOvf := b.rxOvf || decide (cap < b.rx.length + bs.length)
    rxEof := b.rxEof || bs.contains 0x04
    opErr := .ok }

/-- Dropping what does not fit, now or later, is the same. -/
theorem take_take_append (n : Nat) (L M : List Byte) : (L.take n ++ M).take n = (L ++ M).take n := by
  have hleft : n - min n L.length = n - L.length := by omega
  rw [List.take_append, List.take_append, List.take_take, List.length_take, min_self, hleft]

/-- Bytes may be received in pieces. -/
theorem received_received (cap : Nat) (b : Block) (bs cs : List Byte) :
    received cap (received cap b bs) cs = received cap b (bs ++ cs) := by
  have hovf : (cap < b.rx.length + bs.length ∨ cap < min cap (b.rx.length + bs.length) + cs.length) ↔
      cap < b.rx.length + (bs.length + cs.length) := by omega
  simp [received, take_take_append, Bool.or_assoc, ← Bool.decide_or, hovf]

/-- One RX_PUT receives one byte (R142). -/
theorem exec_rxPut_eq_received {s : State} (imm : Byte) (hx : s.block.xstate = .awaitingResponse)
    (hfits : s.block.rx.length ≤ s.cfg.bufCap) :
    exec (.rxPut imm) s = .next (s.setBlock (received s.cfg.bufCap s.block [imm])) := by
  have hrx : (s.block.rx ++ [imm]).take s.cfg.bufCap =
      if s.block.rx.length < s.cfg.bufCap then s.block.rx ++ [imm] else s.block.rx := by
    split_ifs with hroom
    · exact List.take_of_length_le (by simpa using hroom)
    · exact List.take_left' (by omega)
  have hovf : (s.block.rxOvf || decide (s.cfg.bufCap < s.block.rx.length + [imm].length)) =
      if s.block.rx.length < s.cfg.bufCap then s.block.rxOvf else true := by
    split_ifs with hroom
    · simp [hroom]
    · simp [Nat.not_lt.mp hroom]
  have heof : [imm].contains 0x04 = (imm == 0x04) := by
    rw [List.contains_cons, Bool.beq_comm]
    exact Bool.or_false _
  rw [exec_rxPut imm hx, received, hrx, hovf, heof]

/-- The step that serves a CMD write of RX_PUT. -/
theorem step_rxPut {s : State} {imm : Byte} {events : List HostEvent} (hx : s.block.xstate = .awaitingResponse)
    (hfits : s.block.rx.length ≤ s.cfg.bufCap)
    (hp : s.pending = .access (.write 0x000#11 (encode (.rxPut imm))) :: events) :
    step s = .next (({ s with pending := events } : State).setBlock (received s.cfg.bufCap s.block [imm])) :=
  (step_cmd_write hp (decode_encode (.rxPut imm))).trans
    (exec_rxPut_eq_received (s := { s with pending := events }) imm hx hfits)

/-- The CMD writes of a sequence of RX_PUTs, by induction on the sequence. -/
theorem runSteps_rxPuts : ∀ (bs : List Byte) {s : State} {rest : List HostEvent},
    s.block.xstate = .awaitingResponse → s.block.rx.length ≤ s.cfg.bufCap → bs ≠ [] →
      s.pending = bs.map (fun b => .access (.write 0x000#11 (encode (.rxPut b)))) ++ rest →
        runSteps bs.length s =
          .next (({ s with pending := rest } : State).setBlock (received s.cfg.bufCap s.block bs))
  | [], _, _, _, _, hne, _ => absurd rfl hne
  | [_], _, _, hx, hfits, _, hp => runSteps_succ (step_rxPut hx hfits hp)
  | b :: c :: bs, s, rest, hx, hfits, _, hp => by
    rw [List.length_cons, runSteps_succ (step_rxPut hx hfits hp),
      runSteps_rxPuts (c :: bs) (rest := rest) (by exact hx) (List.length_take_le _ _) (List.cons_ne_nil c bs) rfl]
    simp only [State.setBlock_block, State.setBlock_cfg, received_received, List.singleton_append]
    rfl

/-- Settles O38: the words written are those of RX_PUT. -/
theorem receivedSequence : Obligations.ReceivedSequence :=
  fun _ bs _ => runSteps_rxPuts bs

/-! ## The result of VALIDATE -/

/-- VALIDATE in AwaitingResponse runs (R144). -/
theorem exec_validate {s : State} (m : Byte) (hx : s.block.xstate = .awaitingResponse) :
    exec (.validate m) s = .next (s.setBlock { validated m s.block with opErr := .ok }) :=
  exec_of_ok (errorOf_validate.mpr hx)

/-- The state that a VALIDATE in AwaitingResponse leaves. -/
theorem eq_validated {s t : State} {m : Byte} (hx : s.block.xstate = .awaitingResponse)
    (h : exec (.validate m) s = .next t) : t = s.setBlock { validated m s.block with opErr := .ok } :=
  (execValidate_next hx).mp h

/-! Each result of VALIDATE under its condition (R144). -/

theorem verdict_of_short {rx : List Byte} {m cmd : Byte} (hrx : rx ≠ [])
    (hlen : (unstuff rx).length < requiredLen m cmd) : verdict rx m cmd = .lengthMismatch := by
  simp [verdict, hrx, hlen]

theorem verdict_of_long {rx : List Byte} {m cmd : Byte} (hrx : rx ≠ [])
    (hlen : requiredLen m cmd ≤ (unstuff rx).length) :
    verdict rx m cmd =
      if freshChecksum (unstuff rx) = embeddedChecksum (unstuff rx) then .responseValid else .checksumMismatch := by
  simp [verdict, hrx, Nat.not_lt.mpr hlen]

/-- Timeout says that nothing was received. -/
theorem verdict_eq_timeout_iff {rx : List Byte} {m cmd : Byte} : verdict rx m cmd = .timeout ↔ rx = [] := by
  constructor
  · obtain ⟨hrx, -⟩ | ⟨-, -, hv⟩ | ⟨-, -, -, hv⟩ | ⟨-, -, -, hv⟩ := verdict_cases rx m cmd
    · exact fun _ => hrx
    all_goals simp [hv]
  · rintro rfl
    rfl

/-- A valid response has at least the required length. -/
theorem requiredLen_le_of_valid {rx : List Byte} {m cmd : Byte} (h : verdict rx m cmd = .responseValid) :
    requiredLen m cmd ≤ (unstuff rx).length := by
  obtain ⟨-, hv⟩ | ⟨-, -, hv⟩ | ⟨-, hlen, -, -⟩ | ⟨-, -, -, hv⟩ := verdict_cases rx m cmd
  · simp [hv] at h
  · simp [hv] at h
  · exact hlen
  · simp [hv] at h

/-- The comparison of R146 in numbers. -/
theorem freshChecksum_eq_embedded_iff (D : List Byte) :
    freshChecksum D = embeddedChecksum D ↔
      (checksum ((D.drop 1).take (D.length - 4))).toNat =
        (byteAt D (D.length - 3)).toNat + 256 * (byteAt D (D.length - 2)).toNat := by
  rw [freshChecksum, slice_region, embeddedChecksum, ← ofLoHi_toNat, BitVec.toNat_inj]

/-! The result, CRC_ACC and ECHO_MM after VALIDATE (R144, R147). -/

theorem validated_xstate (m : Byte) (b : Block) : (validated m b).xstate = verdict b.rx m b.lastCmd := rfl

theorem validated_crcAcc (m : Byte) (b : Block) :
    (validated m b).crcAcc =
      if checksumComputed (verdict b.rx m b.lastCmd) then freshChecksum (unstuff b.rx) else b.crcAcc := rfl

theorem validated_echoMm (m : Byte) (b : Block) :
    (validated m b).echoMm =
      if b.lastCmd = 0x02 then echoMismatch (verdict b.rx m b.lastCmd) (unstuff b.rx) b.req else false := rfl

/-- CRC_ACC after a VALIDATE that computed a checksum (R144). -/
theorem validated_crcAcc_eq_fresh {m : Byte} {b : Block}
    (h : checksumComputed (verdict b.rx m b.lastCmd) = true) :
    (validated m b).crcAcc = freshChecksum (unstuff b.rx) := (validated_crcAcc m b).trans (if_pos h)

/-- Settles O40: R144's four results by their conditions; the frame is what `validated` does not write. -/
theorem validateVerdict : Obligations.ValidateVerdict := by
  intro s m hx D L need c e
  have hc : freshChecksum D = c := congrArg checksum (slice_region D)
  have hsame : freshChecksum D = embeddedChecksum D ↔ c.toNat = e := freshChecksum_eq_embedded_iff D
  refine ⟨_, exec_validate m hx, fun hrx => ?_, fun hrx hlen => ?_, fun hrx hlen heq => ?_, fun hrx hlen hne => ?_, rfl⟩
  · have hv : verdict s.block.rx m s.block.lastCmd = .timeout := verdict_eq_timeout_iff.mpr hrx
    exact ⟨hv, (validated_crcAcc_of_not_computed c (by rw [hv]; rfl)).1⟩
  · have hv := verdict_of_short hrx hlen
    exact ⟨hv, (validated_crcAcc_of_not_computed c (by rw [hv]; rfl)).1⟩
  · have hv := (verdict_of_long hrx hlen).trans (if_pos (hsame.mpr heq))
    exact ⟨hv, (validated_crcAcc_eq_fresh (by rw [hv]; rfl)).trans hc⟩
  · have hv := (verdict_of_long hrx hlen).trans (if_neg (hsame.not.mpr hne))
    exact ⟨hv, (validated_crcAcc_eq_fresh (by rw [hv]; rfl)).trans hc⟩

/-! ## The echo comparison and the version -/

/-- Two sequences agree in their first n bytes when they agree at every index below n. -/
theorem take_eq_take_iff_getElem? (n : Nat) (L M : List Byte) : L.take n = M.take n ↔ ∀ k < n, L[k]? = M[k]? := by
  constructor
  · intro h k hk
    have hget := congrArg (fun T : List Byte => T[k]?) h
    simpa [hk] using hget
  · intro h
    apply List.ext_getElem?
    intro k
    by_cases hk : k < n
    · simpa [hk] using h k hk
    · simp [hk]

/-- R147: a response was there, and it is not the request's first five bytes. -/
theorem echoMismatch_iff (r : XState) (D req : List Byte) :
    echoMismatch r D req = true ↔ r ≠ .timeout ∧ (D.length < 5 ∨ ∃ k, k < 5 ∧ D[k]? ≠ req[k]?) := by
  have hdiffer : (D.take 5 != req.take 5) = true ↔ ∃ k, k < 5 ∧ D[k]? ≠ req[k]? := by
    rw [bne_iff_ne, ne_eq, take_eq_take_iff_getElem?]
    push Not
    rfl
  rw [echoMismatch]
  split_ifs with hr hlen
  · simp [hr]
  · simp [hr, hlen]
  · simp only [hr, hlen, hdiffer, ne_eq, not_false_eq_true, true_and, false_or]

/-- Settles O41: the request is in ECHO_MM alone, not in the result. -/
theorem validateEcho : Obligations.ValidateEcho := by
  intro s t m hx h D
  obtain rfl := eq_validated hx h
  refine ⟨fun hcmd => ?_, fun hcmd => if_neg hcmd, fun req' t' h' => ?_⟩
  · simp only [State.setBlock_block, validated_echoMm, if_pos hcmd, echoMismatch_iff, ne_eq, verdict_eq_timeout_iff]
    rfl
  · obtain rfl := eq_validated (by exact hx) h'
    rfl

/-- A byte inside a sequence. -/
theorem getElem?_eq_byteAt {L : List Byte} {k : Nat} (hk : k < L.length) : L[k]? = some (byteAt L k) := by
  rw [byteAt, List.getD_eq_getElem _ _ hk, List.getElem?_eq_getElem hk]

/-! The version after VALIDATE (R148). -/

theorem validated_major (m : Byte) (b : Block) :
    (validated m b).major =
      if b.lastCmd = 0x01 ∧ verdict b.rx m b.lastCmd = .responseValid then byteAt (unstuff b.rx) 2 else b.major := by
  simp [validated, Command.code]

theorem validated_minor (m : Byte) (b : Block) :
    (validated m b).minor =
      if b.lastCmd = 0x01 ∧ verdict b.rx m b.lastCmd = .responseValid then byteAt (unstuff b.rx) 3 else b.minor := by
  simp [validated, Command.code]

theorem validated_verValid (m : Byte) (b : Block) :
    (validated m b).verValid =
      if b.lastCmd = 0x01 then verdict b.rx m b.lastCmd == .responseValid else b.verValid := by
  simp [validated, Command.code]

/-- A valid ReadVersion response has at least 7 bytes (R145). -/
theorem seven_le_of_valid_version {rx : List Byte} {m cmd : Byte} (hcmd : cmd = 0x01)
    (h : verdict rx m cmd = .responseValid) : 7 ≤ (unstuff rx).length := by
  subst hcmd
  exact (le_max_right m.toNat 7).trans (requiredLen_le_of_valid h)

/-- Settles O42: the two version bytes stand inside a valid ReadVersion response. -/
theorem validateVersion : Obligations.ValidateVersion := by
  intro s t m hx h D
  obtain rfl := eq_validated hx h
  simp only [State.setBlock_block, validated_xstate, validated_major, validated_minor, validated_verValid]
  refine ⟨fun hcmd hvalid => ?_, fun hcmd hother => ?_, fun hcmd => ?_⟩
  · have hlen : 7 ≤ D.length := seven_le_of_valid_version hcmd hvalid
    have hversion := And.intro hcmd hvalid
    rw [if_pos hversion, if_pos hversion, if_pos hcmd, beq_iff_eq]
    exact ⟨getElem?_eq_byteAt (by omega), getElem?_eq_byteAt (by omega), hvalid⟩
  · have hno : ¬ (s.block.lastCmd = 0x01 ∧ verdict s.block.rx m s.block.lastCmd = .responseValid) :=
      fun hversion => hother hversion.2
    rw [if_neg hno, if_neg hno, if_pos hcmd]
    exact ⟨rfl, rfl, beq_false_of_ne hother⟩
  · have hno : ¬ (s.block.lastCmd = 0x01 ∧ verdict s.block.rx m s.block.lastCmd = .responseValid) :=
      fun hversion => hcmd hversion.1
    rw [if_neg hno, if_neg hno, if_neg hcmd]
    exact ⟨rfl, rfl, rfl⟩

/-! ## Once per exchange -/

/-- A property of the state elements that every step keeps, but for steps that serve certain events, holds after a run
that serves none of these. -/
theorem runSteps_keeps {p : Block → Prop} {excluded : HostEvent → Bool}
    (hstep : ∀ {s t : State}, step s = .next t → p s.block →
      (∀ e rest, s.pending = e :: rest → excluded e = false) → p t.block) (n : Nat) {s t : State} (hp : p s.block)
    (hnone : ∀ e ∈ s.pending.take n, excluded e = false) (hrun : runSteps n s = .next t) : p t.block := by
  induction n generalizing s with
  | zero =>
    obtain rfl : s = t := by simpa using hrun
    exact hp
  | succ n ih =>
    obtain ⟨u, hu⟩ := step_completes s
    rw [runSteps_succ hu] at hrun
    obtain ⟨-, hpending, -⟩ := step_cases hu
    refine ih (hstep hu hp fun e rest he => hnone e (by simp [he])) (fun e he => hnone e ?_) hrun
    rw [hpending, ← List.drop_one, List.take_drop, Nat.add_comm] at he
    exact List.mem_of_mem_drop he

/-- The event that serves an operation's word is a CMD write of the operation's OPC. -/
theorem writesOpc_of_decode {w : Word} {i : Instr} (hd : decode w = .ok i) (opc : Byte) :
    writesOpc opc (.access (.write 0x000#11 w)) = (i.opc == opc) := by
  simp [writesOpc, opcField_of_decode hd]

/-- Only RX_START enters AwaitingResponse (R23). -/
theorem step_keeps_not_awaiting {s t : State} (h : step s = .next t) (hx : s.block.xstate ≠ .awaitingResponse)
    (hnone : ∀ e rest, s.pending = e :: rest → writesOpc 0x20 e = false) : t.block.xstate ≠ .awaitingResponse := by
  by_cases hsame : t.block.xstate = s.block.xstate
  · rwa [hsame]
  obtain ⟨-, -, -, hidle⟩ | ⟨w, i, rest, hp, hd, hop⟩ := exchangeStateTransitions s t h hsame
  · simp [hidle]
  · have hopc := hnone _ _ hp
    rw [writesOpc_of_decode hd] at hopc
    obtain ⟨-, -, hx'⟩ | ⟨-, -, hx'⟩ | ⟨imm, rfl, -⟩ | ⟨-, -, -, hx' | hx' | hx' | hx'⟩ := hop
    · simp [hx']
    · simp [hx']
    · simp [Instr.opc] at hopc
    all_goals simp [hx']

/-- No exchange is under way, and none can start but with a new request: no request is open or sent. -/
abbrev Block.NoExchange (b : Block) : Prop :=
  b.reqOpen = false ∧ b.xstate ≠ .frameSent ∧ b.xstate ≠ .awaitingResponse

theorem noExchange_reset : Block.reset.NoExchange := by decide

/-- Only REQ_START begins an exchange (R123): REQ_SEAL needs its open request and RX_START the sealed one. -/
theorem step_keeps_noExchange {s t : State} (h : step s = .next t) (hno : s.block.NoExchange)
    (hnone : ∀ e rest, s.pending = e :: rest → writesOpc 0x10 e = false) : t.block.NoExchange := by
  obtain ⟨-, -, hsame | ⟨-, -, -, hreset⟩ | ⟨w, i, rest, hp, hd, hok, hwrites⟩ | ⟨code, w, herror⟩⟩ := step_cases h
  · rwa [hsame]
  · exact hreset ▸ noExchange_reset
  · have hopc := hnone _ _ hp
    rw [writesOpc_of_decode hd] at hopc
    obtain ⟨hclosed, hsent, hawaiting⟩ := hno
    rw [hwrites]
    cases i with
    | srst => exact noExchange_reset
    | reqStart => simp [Instr.opc] at hopc
    | reqSeal =>
      obtain ⟨hopen, -⟩ := errorOf_reqSeal.mp hok
      exact absurd hclosed (by simp [hopen])
    | rxStart => exact absurd (errorOf_rxStart.mp hok) hsent
    | validate => exact absurd (errorOf_validate.mp hok) hawaiting
    | _ => exact ⟨hclosed, hsent, hawaiting⟩
  · rwa [herror]

/-- A result of VALIDATE is none of the states an exchange goes through before it. -/
theorem verdict_ends (rx : List Byte) (m cmd : Byte) :
    verdict rx m cmd ≠ .frameSent ∧ verdict rx m cmd ≠ .awaitingResponse := by
  obtain ⟨-, hv⟩ | ⟨-, -, hv⟩ | ⟨-, -, -, hv⟩ | ⟨-, -, -, hv⟩ := verdict_cases rx m cmd <;> simp [hv]

/-- After a VALIDATE, run or refused, the exchange is not in AwaitingResponse. -/
theorem not_awaiting_of_validate {s t : State} {m : Byte} (h : exec (.validate m) s = .next t) :
    t.block.xstate ≠ .awaitingResponse := by
  obtain ⟨herr, rfl⟩ | ⟨-, rfl⟩ := exec_cases h
  · exact (errorOf_validate (minLen := m)).not.mp herr
  · exact (verdict_ends _ _ _).2

/-- After a VALIDATE that ran, in a state that meets the invariant, the exchange is over. -/
theorem noExchange_of_validate {s t : State} {m : Byte} (hinv : s.Inv) (h : exec (.validate m) s = .next t)
    (hok : t.block.opErr = .ok) : t.block.NoExchange := by
  have hx := errorOf_validate.mp ((opErr_of_exec h).symm.trans hok)
  obtain ⟨-, -, -, hsealed⟩ := hinv
  obtain ⟨hclosed, -⟩ := hsealed (by simp [hx])
  rw [eq_validated hx h]
  exact ⟨hclosed, verdict_ends _ _ _⟩

/-- VALIDATE outside AwaitingResponse (R144, R183). -/
theorem exec_validate_of_not_awaiting {s : State} (m : Byte) (hx : s.block.xstate ≠ .awaitingResponse) :
    exec (.validate m) s =
      .next (s.setBlock { s.block with opErr := .sequence, errSeen := true, errWord := encode (.validate m) }) := by
  have hsequence : errorOf (.validate m) s = .sequence := if_neg hx
  exact exec_of_errorOf_eq hsequence (by decide)

/-- Settles O43: neither a result of VALIDATE nor, without RX_START or REQ_START, what follows is AwaitingResponse. -/
theorem validateRunsOncePerExchange : Obligations.ValidateRunsOncePerExchange := by
  intro s m
  refine ⟨decode_encode (.validate m), exec_validate_of_not_awaiting m, fun t u n m' h hevents hrun => ?_⟩
  apply exec_validate_of_not_awaiting m'
  obtain hnone | ⟨hinv, hok, hnone⟩ := hevents
  · exact runSteps_keeps (p := fun b => b.xstate ≠ .awaitingResponse) step_keeps_not_awaiting n
      (not_awaiting_of_validate h) hnone hrun
  · obtain ⟨-, -, hx⟩ := runSteps_keeps step_keeps_noExchange n (noExchange_of_validate hinv h hok) hnone hrun
    exact hx

/-! ## What VALIDATE does not look at -/

/-- Two sequences of one length that agree strictly between their ends. -/
abbrev SameInside (D D' : List Byte) : Prop :=
  D.length = D'.length ∧ ∀ k, 0 < k → k + 1 < D.length → byteAt D k = byteAt D' k

/-- The checksum region lies strictly inside (R146). -/
theorem freshChecksum_congr {D D' : List Byte} (h : SameInside D D') : freshChecksum D = freshChecksum D' := by
  obtain ⟨hlen, hinside⟩ := h
  have hregion : (D.drop 1).take (D.length - 4) = (D'.drop 1).take (D'.length - 4) := by
    rw [hlen, take_eq_take_iff_getElem?]
    intro k hk
    rw [List.getElem?_drop, List.getElem?_drop, getElem?_eq_byteAt (by omega), getElem?_eq_byteAt (by omega),
      hinside (1 + k) (by omega) (by omega)]
  rw [freshChecksum, freshChecksum, slice_region, slice_region, hregion]

/-- So do the two checksum bytes of a response of the least length of R145. -/
theorem embeddedChecksum_congr {D D' : List Byte} (h : SameInside D D') (hlen : 5 ≤ D.length) :
    embeddedChecksum D = embeddedChecksum D' := by
  obtain ⟨hsame, hinside⟩ := h
  rw [embeddedChecksum, embeddedChecksum, ← hsame, hinside _ (by omega) (by omega), hinside _ (by omega) (by omega)]

theorem five_le_requiredLen (m cmd : Byte) : 5 ≤ requiredLen m cmd := by
  rw [requiredLen, baseLen]
  split_ifs <;> omega

/-- R152: the result is the same for two responses that agree inside. -/
theorem verdict_congr {rx rx' : List Byte} (m cmd : Byte) (h : SameInside (unstuff rx) (unstuff rx')) :
    verdict rx m cmd = verdict rx' m cmd := by
  have hlen : (unstuff rx).length = (unstuff rx').length := h.1
  have hempty : rx = [] ↔ rx' = [] := by
    rw [← unstuff_eq_nil rx, ← unstuff_eq_nil rx', ← List.length_eq_zero_iff, ← List.length_eq_zero_iff, hlen]
  by_cases hrx : rx = []
  · rw [hrx, hempty.mp hrx]
  have hrx' : rx' ≠ [] := hempty.not.mp hrx
  by_cases hshort : (unstuff rx).length < requiredLen m cmd
  · rw [verdict_of_short hrx hshort, verdict_of_short hrx' (hlen ▸ hshort)]
  · have hlong : requiredLen m cmd ≤ (unstuff rx).length := Nat.not_lt.mp hshort
    have hfive := (five_le_requiredLen m cmd).trans hlong
    rw [verdict_of_long hrx hlong, verdict_of_long hrx' (hlen ▸ hlong), freshChecksum_congr h,
      embeddedChecksum_congr h hfive]

/-- Settles O44: besides the result VALIDATE takes from the response its checksum and, from a valid ReadVersion
response, two bytes inside it. -/
theorem validateIgnoresDelimiters : Obligations.ValidateIgnoresDelimiters := by
  intro s s' t t' m hx hx' hcmd hlen hinside h h'
  have hverdict := verdict_congr m s.block.lastCmd ⟨hlen, hinside⟩
  have hfresh := freshChecksum_congr ⟨hlen, hinside⟩
  obtain rfl := eq_validated hx h
  obtain rfl := eq_validated hx' h'
  have hbyte : ∀ k, 0 < k → k < 4 → s.block.lastCmd = 0x01 ∧
      verdict s'.block.rx m s.block.lastCmd = .responseValid →
        byteAt (unstuff s.block.rx) k = byteAt (unstuff s'.block.rx) k := by
    intro k hpos hk ⟨hversion, hvalid⟩
    have hseven := seven_le_of_valid_version hversion (hverdict.trans hvalid)
    exact hinside k hpos (by omega)
  simp only [State.setBlock_block, validated_xstate, validated_crcAcc, validated_major, validated_minor,
    validated_verValid, validated_echoMm, ← hcmd, hverdict, hfresh]
  refine ⟨trivial, fun hacc => by rw [hacc], fun hmajor => ?_, fun hminor => ?_, fun hver => by rw [hver],
    fun hne => by rw [if_neg hne, if_neg hne]⟩
  · rw [hmajor]
    exact ite_congr rfl (hbyte 2 (by omega) (by omega)) fun _ => rfl
  · rw [hminor]
    exact ite_congr rfl (hbyte 3 (by omega) (by omega)) fun _ => rfl

end Sys2Proof.Machine
end

section
/-! PROOFS. The statement of 43_control.md: what NOP and ERR_CLR do (R170, R172). -/

namespace Sys2Proof.Machine

/-- Settles O18: the table of R182 gives neither operation an error, so in every state each ends with its writes and
OPERR cleared (R184); NOP writes nothing else, ERR_CLR the rest of the error record. -/
theorem nopAndErrClrResults : Obligations.NopAndErrClrResults := by
  intro s imm
  have hnop : errorOf (.nop imm) s = .ok := rfl
  have herrClr : errorOf (.errClr imm) s = .ok := rfl
  exact ⟨decode_encode (.nop imm), exec_of_ok hnop, decode_encode (.errClr imm), exec_of_ok herrClr⟩

end Sys2Proof.Machine
end

section
/-! PROOFS. The statements of 60_exceptions.md: every step completes (R180, R196), and an operation error writes the
error record alone (R182 to R185). -/

namespace Sys2Proof.Machine

/-! ## Completion -/

/-- Settles O9: no step stops the machine (R180, R196), and among the things a step can do none writes the configuration
and each takes the oldest host event. -/
theorem stepAlwaysCompletes : Obligations.StepAlwaysCompletes := by
  intro s
  obtain ⟨t, hstep⟩ := step_completes s
  obtain ⟨hcfg, hpending, -⟩ := step_cases hstep
  exact ⟨t, hstep, hpending, hcfg⟩

/-! ## The error record -/

/-- The two OPCs whose operations clear the error record are SRST's and ERR_CLR's (R75). -/
theorem eq_srst_or_errClr_of_opc {i : Instr} (h : i.opc = 0x0F ∨ i.opc = 0x30) :
    ∃ imm, i = .srst imm ∨ i = .errClr imm := by
  cases i with
  | srst imm => exact ⟨imm, .inl rfl⟩
  | errClr imm => exact ⟨imm, .inr rfl⟩
  | _ => simp [Instr.opc] at h

/-- An operation other than SRST and ERR_CLR that takes no error leaves ERRSEEN and ERRWORD (R184). -/
theorem written_keeps_errorRecord {i : Instr} (s : State) (h : ∀ imm, i ≠ .srst imm ∧ i ≠ .errClr imm) :
    (written i s).errSeen = s.block.errSeen ∧ (written i s).errWord = s.block.errWord := by
  obtain hkept | ⟨hopc, -⟩ := written_errorRecord i s
  · exact hkept
  · obtain ⟨imm, hi⟩ := eq_srst_or_errClr_of_opc hopc
    exact absurd hi (not_or.mpr (h imm))

/-- Settles O47, by the two ways an operation can end: an error writes the error record alone (R183), a success its
writes with OPERR cleared (R184). An undefined word is an error too (R76). -/
theorem errorsArePrecise : Obligations.ErrorsArePrecise := by
  refine ⟨fun i s => ?_, fun s w hopc => ⟨_, illegalOpcodeTakesError s w hopc, rfl⟩⟩
  by_cases hok : errorOf i s = .ok
  · refine ⟨_, exec_of_ok hok, fun herr => absurd hok herr, fun _ => ⟨rfl, rfl, rfl, rfl, rfl, ?_, ?_⟩⟩
    · rintro ⟨imm, rfl | rfl⟩
      · exact ⟨rfl, rfl⟩
      · exact ⟨rfl, rfl⟩
    · exact written_keeps_errorRecord s
  · exact ⟨_, exec_of_error hok, fun _ => rfl, fun hok' => absurd hok' hok⟩

end Sys2Proof.Machine
end

section
/-! PROOFS. The statements of 70_reset_and_hazards.md: an access that coincides with reset (R200), bytes after a
response's end-marker (R208), and a whole exchange in the order of the host procedure (R203). -/

namespace Sys2Proof.Machine

/-! ## Reset -/

/-- The reset input's event: every state element at its reset value, and the coinciding access lost (R200). -/
theorem hostEvent_reset (lost : Option Access) (s : State) :
    hostEvent (.reset lost) s = .next (loseAccess lost (resetBlock s)) := rfl

/-- Settles O17: a lost write leaves the reset state as it is, and a lost read only draws the free value. -/
theorem accessDuringResetIsLost : Obligations.AccessDuringResetIsLost := by
  intro s a w
  simp only [hostEvent_reset]
  exact ⟨rfl, Config.freeRead s.draws, rfl, rfl⟩

/-! ## The checksum is linear

Every step of the checksum is linear over XOR (R100 to R102), so what the bytes of a frame's own checksum make of the
accumulator depends on one byte alone, the XOR of the two. -/

/-- TABLE is linear in its index (R100). -/
theorem tableAt_xor : ∀ i j : Nibble, tableAt (i ^^^ j) = tableAt i ^^^ tableAt j := by decide

theorem nibStep_xor (a x : Word) (n m : Nibble) : nibStep (a ^^^ x) (n ^^^ m) = nibStep a n ^^^ nibStep x m := by
  have htop : topNibble (a ^^^ x) = topNibble a ^^^ topNibble x := BitVec.extractLsb'_xor
  simp only [nibStep_eq, htop, tableAt_xor, BitVec.shiftLeft_xor_distrib]
  ac_rfl

theorem byteStep_xor (a x : Word) (b d : Byte) : byteStep (a ^^^ x) (b ^^^ d) = byteStep a b ^^^ byteStep x d := by
  have hhi : hiNibble (b ^^^ d) = hiNibble b ^^^ hiNibble d := BitVec.extractLsb'_xor
  have hlo : loNibble (b ^^^ d) = loNibble b ^^^ loNibble d := BitVec.extractLsb'_xor
  simp only [byteStep, hhi, hlo, nibStep_xor]

/-- A byte that differs by `e` from the accumulator's high byte: the accumulator is shifted, and `e` is what enters. -/
theorem byteStep_hiByte_xor (c : Word) (e : Byte) : byteStep c (hiByte c ^^^ e) = c <<< 8 ^^^ byteStep 0x0000 e := by
  have h := byteStep_xor c 0x0000 (hiByte c) e
  rwa [byteStep_hiByte, show c ^^^ 0x0000 = c from BitVec.xor_zero] at h

/-- The XOR of a checksum's two bytes. -/
def checksumFold (c : Word) : Byte := hiByte c ^^^ loByte c

theorem hiByte_xor_checksumFold (c : Word) : hiByte c ^^^ checksumFold c = loByte c := by
  rw [checksumFold, ← BitVec.xor_assoc, BitVec.xor_self, BitVec.zero_xor]

theorem loByte_xor_checksumFold (c : Word) : loByte c ^^^ checksumFold c = hiByte c := by
  rw [checksumFold, BitVec.xor_comm (hiByte c), ← BitVec.xor_assoc, BitVec.xor_self, BitVec.zero_xor]

/-- The checksum's low byte after the checksum. -/
theorem byteStep_loByte (c : Word) : byteStep c (loByte c) = c <<< 8 ^^^ byteStep 0x0000 (checksumFold c) := by
  rw [← byteStep_hiByte_xor, hiByte_xor_checksumFold]

/-- Both bytes of the checksum after it, in the order of a frame (R54): they would cancel in the other order (R108). -/
theorem byteStep_loByte_hiByte (c : Word) :
    byteStep (byteStep c (loByte c)) (hiByte c) =
      byteStep (byteStep 0x0000 (checksumFold c)) (checksumFold c) := by
  have h := byteStep_xor (byteStep c (hiByte c)) (byteStep 0x0000 (checksumFold c)) (loByte c) (checksumFold c)
  rw [byteStep_hiByte_loByte, loByte_xor_checksumFold, byteStep_hiByte, ← byteStep_loByte] at h
  exact h.trans BitVec.zero_xor

/-- A finite fact about TABLE, and the reason of R208 for two extra bytes. -/
theorem loByte_byteStep_byteStep_ne : ∀ e : Byte, loByte (byteStep (byteStep 0x0000 e) e) ≠ endMarker := by decide

@[simp] theorem loByte_ofLoHi (lo hi : Byte) : loByte (ofLoHi lo hi) = lo := extract_append_low hi lo

@[simp] theorem hiByte_ofLoHi (lo hi : Byte) : hiByte (ofLoHi lo hi) = hi := extract_append_high hi lo

theorem ofLoHi_bytes (c : Word) : ofLoHi (loByte c) (hiByte c) = c := opcField_append_immField c

theorem checksumFold_xor (a x : Word) : checksumFold (a ^^^ x) = checksumFold a ^^^ checksumFold x := by
  have hhi : hiByte (a ^^^ x) = hiByte a ^^^ hiByte x := BitVec.extractLsb'_xor
  have hlo : loByte (a ^^^ x) = loByte a ^^^ loByte x := BitVec.extractLsb'_xor
  rw [checksumFold, hhi, hlo, checksumFold, checksumFold]
  ac_rfl

/-- A shift by a byte leaves the low byte alone, as the high one. -/
theorem checksumFold_shiftLeft (c : Word) : checksumFold (c <<< 8) = loByte c := by
  ext i hi
  simp [checksumFold, loByte, hiByte, hi, show 8 + i < 16 by omega, BitVec.getLsbD_eq_getElem (show i < 16 by omega)]

/-- A finite fact about TABLE, and the reason of R208 for one extra byte. -/
theorem checksumFold_byteStep_ne : ∀ e : Byte, checksumFold (byteStep 0x0000 e) ≠ e ^^^ endMarker := by decide

/-- One byte after the end-marker: the checksum's high byte and the end-marker are no checksum of what stands before
them. -/
theorem byteStep_loByte_ne (c : Word) : byteStep c (loByte c) ≠ ofLoHi (hiByte c) endMarker := by
  intro h
  have hfold : loByte c ^^^ checksumFold (byteStep 0x0000 (checksumFold c)) = endMarker ^^^ hiByte c := by
    rw [← checksumFold_shiftLeft, ← checksumFold_xor, ← byteStep_loByte, h, checksumFold, hiByte_ofLoHi, loByte_ofLoHi]
  apply checksumFold_byteStep_ne (checksumFold c)
  calc checksumFold (byteStep 0x0000 (checksumFold c))
      = loByte c ^^^ (endMarker ^^^ hiByte c) := by
        rw [← hfold, ← BitVec.xor_assoc, BitVec.xor_self, BitVec.zero_xor]
    _ = checksumFold c ^^^ endMarker := by
        rw [checksumFold]
        ac_rfl

/-- Two bytes after the end-marker: no word with the end-marker as its low byte is the checksum of what stands before
it. -/
theorem byteStep_loByte_hiByte_ne (c : Word) (hi : Byte) :
    byteStep (byteStep c (loByte c)) (hiByte c) ≠ ofLoHi endMarker hi := by
  intro h
  have hlo := congrArg loByte h
  rw [byteStep_loByte_hiByte, loByte_ofLoHi] at hlo
  exact loByte_byteStep_byteStep_ne _ hlo

/-! ## Bytes after the end-marker -/

/-- Behind a stuffed sequence that does not end in an escape-marker the scan starts afresh: its last byte is in no
pair (R140, R150). -/
theorem unstuff_stuffTail_append {z : Byte} (hz : z ≠ escapeMarker) (M R : List Byte) :
    unstuff (stuffTail (M ++ [z]) ++ R) = M ++ z :: unstuff R := by
  rw [stuffTail_snoc]
  induction M with
  | nil => exact unstuff_keep hz R
  | cons b M ih =>
    cases hb : isControl b with
    | true => simpa [hb, unstuff_pair hb] using ih
    | false => simpa [hb, unstuff_keep_of_not_control hb] using ih

/-- A stuffed frame and more bytes decode to the frame and what the bytes alone decode to. -/
theorem unstuff_stuff_frame_append (cmd : Byte) (P R : List Byte) :
    unstuff (stuff (frame cmd P) ++ R) = frame cmd P ++ unstuff R := by
  rw [frame_snoc, List.cons_append, stuff_cons, List.cons_append, unstuff_keep (by decide),
    unstuff_stuffTail_append (by decide)]
  simp

/-! VALIDATE takes the last three bytes of the decoded response for checksum and end-marker (R146). -/

theorem freshChecksum_ends (a : Byte) (M : List Byte) (lo hi z : Byte) :
    freshChecksum (a :: M ++ [lo, hi, z]) = checksum M := by
  simp [freshChecksum, slice]

theorem embeddedChecksum_ends (a : Byte) (M : List Byte) (lo hi z : Byte) :
    embeddedChecksum (a :: M ++ [lo, hi, z]) = ofLoHi lo hi := by
  simp [embeddedChecksum, byteAt]

/-- R144's comparison on a decoded response of the required length. -/
theorem verdict_of_ends {rx : List Byte} {m cmd a lo hi z : Byte} {M : List Byte}
    (hD : unstuff rx = a :: M ++ [lo, hi, z]) (hlen : requiredLen m cmd ≤ M.length + 4) :
    verdict rx m cmd = if checksum M = ofLoHi lo hi then .responseValid else .checksumMismatch := by
  have hrx : rx ≠ [] := fun h => by simp [h, unstuff] at hD
  rw [verdict_of_long hrx (by simpa [hD] using hlen), hD, freshChecksum_ends, embeddedChecksum_ends]

/-- A frame is its delimiters, its command and payload, and their checksum (R120). -/
theorem frame_ends (cmd : Byte) (P : List Byte) :
    frame cmd P =
      beginMarker :: (cmd :: P) ++ [loByte (checksum (cmd :: P)), hiByte (checksum (cmd :: P)), endMarker] := rfl

/-- A frame of the required length is a valid response (R144, R149). -/
theorem verdict_of_frame {rx : List Byte} {m cmd cmd' : Byte} {P : List Byte} (hD : unstuff rx = frame cmd' P)
    (hlen : requiredLen m cmd ≤ (frame cmd' P).length) : verdict rx m cmd = .responseValid := by
  rw [verdict_of_ends (hD.trans (frame_ends cmd' P)) (by simpa using hlen), ofLoHi_bytes, if_pos rfl]

/-- R144's comparison where the region that the checksum covers is longer than `L`, and the bytes `M` after it take the
checksum of `L` to another word than the one that follows. -/
theorem verdict_of_extra {rx : List Byte} {m cmd a lo hi z : Byte} {L M : List Byte}
    (hD : unstuff rx = a :: (L ++ M) ++ [lo, hi, z]) (hlen : requiredLen m cmd ≤ L.length + 4)
    (hne : M.foldl byteStep (checksum L) ≠ ofLoHi lo hi) : verdict rx m cmd = .checksumMismatch := by
  have hlonger : requiredLen m cmd ≤ (L ++ M).length + 4 := by
    rw [List.length_append]
    omega
  rw [verdict_of_ends hD hlonger, checksum_append, if_neg hne]

/-- One or two bytes decode to one or two: the two can be a pair. -/
theorem unstuff_one_or_two {R : List Byte} (h : R.length = 1 ∨ R.length = 2) :
    (∃ x, unstuff R = [x]) ∨ ∃ x y, unstuff R = [x, y] := by
  match R, h with
  | [x], _ => exact .inl ⟨x, rfl⟩
  | [x, y], _ =>
    rw [unstuff]
    split
    · exact .inl ⟨y, rfl⟩
    · exact .inr ⟨x, y, rfl⟩

/-- R208 for one or two bytes after a frame: they shift bytes of its own checksum into the region it covers. -/
theorem verdict_of_frame_extra {rx extra : List Byte} {m cmd cmd' : Byte} {P : List Byte}
    (hD : unstuff rx = frame cmd' P ++ unstuff extra) (hextra : extra.length = 1 ∨ extra.length = 2)
    (hlen : requiredLen m cmd ≤ (frame cmd' P).length) : verdict rx m cmd = .checksumMismatch := by
  rw [frame_ends] at hD
  rw [length_frame] at hlen
  obtain ⟨x, hR⟩ | ⟨x, y, hR⟩ := unstuff_one_or_two hextra
  · have hends : unstuff rx = beginMarker :: (cmd' :: P ++ [loByte (checksum (cmd' :: P))]) ++
        [hiByte (checksum (cmd' :: P)), endMarker, x] := by simp [hD, hR]
    exact verdict_of_extra hends hlen (byteStep_loByte_ne _)
  · have hends : unstuff rx = beginMarker ::
        (cmd' :: P ++ [loByte (checksum (cmd' :: P)), hiByte (checksum (cmd' :: P))]) ++ [endMarker, x, y] := by
      simp [hD, hR]
    exact verdict_of_extra hends hlen (byteStep_loByte_hiByte_ne _ x)

/-- Settles O45: the scan starts afresh behind the end-marker, and no checksum fits once one or two bytes follow; the
three bytes decode to the end of a longer frame. -/
theorem extraBytesMakeChecksumMismatch : Obligations.ExtraBytesMakeChecksumMismatch := by
  constructor
  · intro s m cmd P extra hx hrx hextra hlen
    have hD : unstuff s.block.rx = frame cmd P ++ unstuff extra := by rw [hrx, unstuff_stuff_frame_append]
    exact ⟨_, exec_validate m hx, verdict_of_frame_extra hD hextra hlen⟩
  · intro s hx hcmd hrx
    have hD : unstuff s.block.rx = frame 0x02 [0x42, 0x20, 0x04] := by
      rw [hrx]
      decide
    exact ⟨hD, _, exec_validate 0x05 hx, verdict_of_frame hD (by rw [hcmd]; decide)⟩

/-! ## A whole exchange -/

/-- The host's CMD writes of a list of operations, oldest first. -/
def cmdWrites (ops : List Instr) : List HostEvent := ops.map fun i => .access (.write 0x000#11 (encode i))

/-- Serving the CMD writes of the operations, whatever is pending behind them, takes `s` to `t`, apart from what is
pending. -/
def Performs (ops : List Instr) (s t : State) : Prop :=
  ∀ rest, runSteps ops.length { s with pending := cmdWrites ops ++ rest } = .next { t with pending := rest }

theorem Performs.append {ops ops' : List Instr} {s t u : State} (h : Performs ops s t) (h' : Performs ops' t u) :
    Performs (ops ++ ops') s u := by
  intro rest
  have hrun := h (cmdWrites ops' ++ rest)
  rw [← List.append_assoc, cmdWrites, cmdWrites, ← List.map_append] at hrun
  rw [List.length_append, cmdWrites, runSteps_add _ hrun]
  exact h' rest

/-- No operation looks at what is pending behind it. -/
theorem exec_with_pending {i : Instr} {s : State} (hok : errorOf i s = .ok) (rest : List HostEvent) :
    exec i { s with pending := rest } =
      .next { s.setBlock { written i s with opErr := .ok } with pending := rest } := by
  have herr : errorOf i { s with pending := rest } = errorOf i s := by cases i <;> rfl
  have hwrites : written i { s with pending := rest } = written i s := by cases i <;> rfl
  rw [exec_of_ok (herr.trans hok), hwrites]
  rfl

/-- One operation that takes no error. -/
theorem performs_one {i : Instr} {s : State} (hok : errorOf i s = .ok) :
    Performs [i] s (s.setBlock { written i s with opErr := .ok }) := by
  intro rest
  exact runSteps_succ ((step_cmd_write rfl (decode_encode i)).trans (exec_with_pending hok rest))

/-- The state elements with a request of this command and payload open (R123, R124). -/
def requested (b : Block) (cmd : Byte) (P : List Byte) : Block :=
  { b with req := beginMarker :: cmd :: P, reqOpen := true, xstate := .idle, echoMm := false, opErr := .ok }

/-- REQ_START and a REQ_PUT for each payload byte, by induction on the payload from its end. -/
theorem performs_request {cmd : Byte} {s : State} (hcmd : 1 ≤ cmd.toNat ∧ cmd.toNat ≤ 5) (P : List Byte)
    (hroom : P.length + 5 ≤ s.cfg.bufCap) :
    Performs (.reqStart cmd :: P.map .reqPut) s (s.setBlock (requested s.block cmd P)) := by
  induction P using List.reverseRecOn with
  | nil => exact performs_one (errorOf_reqStart.mpr hcmd)
  | append_singleton P b ih =>
    rw [List.length_append, List.length_singleton] at hroom
    have hput : errorOf (.reqPut b) (s.setBlock (requested s.block cmd P)) = .ok :=
      errorOf_reqPut.mpr ⟨rfl, by simp [requested]; omega⟩
    rw [List.map_append, ← List.cons_append]
    exact (ih (by omega)).append (performs_one hput)

/-- The state elements with the request of this command and payload sent and nothing received yet (R125, R141). -/
def awaiting (b : Block) (cmd : Byte) (P : List Byte) : Block :=
  { b with
    req := frame cmd P, tx := stuff (frame cmd P), crcAcc := checksum (cmd :: P), reqOpen := false,
    xstate := .awaitingResponse, echoMm := false, lastCmd := cmd, rx := [], rxEof := false, rxOvf := false,
    opErr := .ok }

/-- REQ_SEAL of a request whose stuffed frame fits, and RX_START. -/
theorem performs_send {cmd : Byte} {P : List Byte} {s : State} (hfits : (stuff (frame cmd P)).length ≤ s.cfg.bufCap) :
    Performs [.reqSeal 0x00, .rxStart 0x00] (s.setBlock (requested s.block cmd P))
      (s.setBlock (awaiting s.block cmd P)) := by
  have hreq : (requested s.block cmd P).req = beginMarker :: cmd :: P := rfl
  have hseal : errorOf (.reqSeal 0x00) (s.setBlock (requested s.block cmd P)) = .ok :=
    errorOf_reqSeal.mpr ⟨rfl, by rwa [State.setBlock_block, sealedFrame_eq hreq]⟩
  have hend := (performs_one hseal).append (performs_one (i := .rxStart 0x00) (errorOf_rxStart.mpr rfl))
  simp only [written, State.setBlock_block, State.setBlock_setBlock, sealedFrame_eq hreq, openCmd_eq hreq,
    openPayload_eq hreq] at hend
  exact hend

/-- An RX_PUT for each received byte. -/
theorem performs_receive {bs : List Byte} {s : State} (hx : s.block.xstate = .awaitingResponse)
    (hfits : s.block.rx.length ≤ s.cfg.bufCap) (hbs : bs ≠ []) :
    Performs (bs.map .rxPut) s (s.setBlock (received s.cfg.bufCap s.block bs)) := by
  intro rest
  rw [List.length_map, cmdWrites, List.map_map]
  exact runSteps_rxPuts bs (s := { s with pending := _ }) hx hfits hbs rfl

theorem stuff_frame_ne_nil (cmd : Byte) (P : List Byte) : stuff (frame cmd P) ≠ [] := by
  obtain ⟨L, hL, -⟩ := stuff_frame_eq_cons cmd P
  exact hL ▸ List.cons_ne_nil _ _

/-- The block before VALIDATE, where the response is the request's own stuffed frame. -/
abbrev echoed (cap : Nat) (b : Block) (cmd : Byte) (P : List Byte) : Block :=
  received cap (awaiting b cmd P) (stuff (frame cmd P))

/-- The exchange of R203 with the request handed back as its response. -/
theorem performs_exchange {cmd : Byte} {P : List Byte} {s : State} (m : Byte) (hcmd : 1 ≤ cmd.toNat ∧ cmd.toNat ≤ 5)
    (hfits : (stuff (frame cmd P)).length ≤ s.cfg.bufCap) :
    Performs
      (.reqStart cmd :: P.map .reqPut ++ [.reqSeal 0x00, .rxStart 0x00] ++ (stuff (frame cmd P)).map .rxPut ++
        [.validate m])
      s (s.setBlock { validated m (echoed s.cfg.bufCap s.block cmd P) with opErr := .ok }) := by
  have hlen := length_frame cmd P
  obtain ⟨hroom, -⟩ := length_stuff_bounds (U := frame cmd P) (by omega)
  have hrequest := performs_request (s := s) hcmd P (by omega)
  have hreceive := performs_receive (s := s.setBlock (awaiting s.block cmd P)) rfl (Nat.zero_le _)
    (stuff_frame_ne_nil cmd P)
  have hvalidate := performs_one (s := s.setBlock (echoed s.cfg.bufCap s.block cmd P))
    (errorOf_validate (minLen := m).mpr rfl)
  exact ((hrequest.append (performs_send hfits)).append hreceive).append hvalidate

/-- A response that fits is all in RX, and RX_OVF stays clear (R142). -/
theorem echoed_rx {cap : Nat} {cmd : Byte} {P : List Byte} (b : Block) (hfits : (stuff (frame cmd P)).length ≤ cap) :
    (echoed cap b cmd P).rx = stuff (frame cmd P) ∧ (echoed cap b cmd P).rxOvf = false := by
  simp [received, awaiting, hfits]

/-- The echo comparison finds nothing where the response decodes to the request (R147). -/
theorem validated_echoMm_of_echo (m : Byte) {b : Block} (hD : unstuff b.rx = b.req) (hlen : 5 ≤ b.req.length) :
    (validated m b).echoMm = false := by
  simp [validated_echoMm, echoMismatch, hD, hlen]

/-- Only a ReadVersion echo can be too short, with fewer than two payload bytes (R145). -/
theorem length_frame_lt_requiredLen_iff (cmd : Byte) (P : List Byte) :
    (frame cmd P).length < requiredLen 0x05 cmd ↔ cmd = 0x01 ∧ P.length < 2 := by
  show (frame cmd P).length < max 5 (if cmd = 0x01 then 7 else 5) ↔ _
  rw [length_frame]
  split_ifs with hcmd
  · simp only [hcmd, true_and]
    omega
  · simp only [hcmd, false_and, iff_false]
    omega

/-- The result of VALIDATE for an echo. -/
theorem verdict_of_echo (cmd : Byte) (P : List Byte) :
    verdict (stuff (frame cmd P)) 0x05 cmd =
      if cmd = 0x01 ∧ P.length < 2 then .lengthMismatch else .responseValid := by
  have hD := unstuff_stuff_frame cmd P
  split_ifs with hshort
  · exact verdict_of_short (stuff_frame_ne_nil cmd P) (by rwa [hD, length_frame_lt_requiredLen_iff])
  · exact verdict_of_frame hD (Nat.not_lt.mp ((length_frame_lt_requiredLen_iff cmd P).not.mpr hshort))

/-- Settles O57: R203's operations all succeed, and what VALIDATE finds in RX decodes to the request's own frame. -/
theorem echoedExchangeIsValid : Obligations.EchoedExchangeIsValid := by
  intro s cmd P rest U ops _ hlow hhigh hfits hp
  obtain ⟨hrx, hovf⟩ := echoed_rx s.block hfits
  have hD : unstuff (echoed s.cfg.bufCap s.block cmd P).rx = frame cmd P := by rw [hrx, unstuff_stuff_frame]
  have hrun : runSteps ops.length { s with pending := cmdWrites ops ++ rest } = _ :=
    performs_exchange 0x05 ⟨hlow, hhigh⟩ hfits rest
  have hs : ({ s with pending := cmdWrites ops ++ rest } : State) = s := by rw [cmdWrites, ← hp]
  rw [hs] at hrun
  refine ⟨_, hrun, rfl, ?_, ?_, rfl, rfl, hrx, hD, rfl, hovf, rfl, rfl, rfl⟩
  · exact (congrArg (verdict · 0x05 cmd) hrx).trans (verdict_of_echo cmd P)
  · exact validated_echoMm_of_echo 0x05 hD (length_frame cmd P ▸ Nat.le_add_left 5 _)

end Sys2Proof.Machine
end
